-- ==== Sys2Proof/Word.lean ====
section
/-! DEFINITION. The widths the block works in: 32-bit words, bytes, colours, dimensions and palette indices. -/

namespace Sys2Proof

/-- A command word, a register value, bus write data or bus read data (R7 `DATA_BITS` = 32). -/
abbrev Word := BitVec 32

/-- One byte of the TileSet (R8: bit 7 is the most significant). -/
abbrev Byte := BitVec 8

/-- A host byte address (R7 `ADDR_BITS` = 16). -/
abbrev Addr := BitVec 16

/-- A colour value (R7 `COLOR_BITS` = 24), compared bitwise only (R73, R120). -/
abbrev Color := BitVec 24

/-- A WIDTH or HEIGHT field, and the registers `W` and `H` (R26, R72): 9 bits. -/
abbrev Dim := BitVec 9

/-- A palette index (R7 `INDEX_BITS` = 2). -/
abbrev PalIndex := BitVec 2

end Sys2Proof
end

