-- ==== Sys2Proof/Syntax.lean ====
section
/-! DEFINITION. The five commands of the opcode table, and the host-script lines of R78 and R79 that deliver them. -/

namespace Sys2Proof

/-- The commands of R75, one constructor per row of the opcode table. The operand fields have exactly the widths R72
and R73 give them, so every value of this type has an encoding. -/
inductive Instr where
  | nop                       -- NOP, format Z
  | clear                     -- CLEAR, format Z
  | setdim (w h : Dim)        -- SETDIM w, h, format D
  | pixel (c : Color)         -- PIXEL c, format P
  | encode                    -- ENCODE, format Z
deriving DecidableEq, Repr

/-- The lines of the host-script syntax (R78) with the one pseudo-instruction (R79). Numbers are unbounded here, as a
script writes them; WellFormed.lean checks their ranges. -/
inductive HostLine where
  | nop
  | clear
  | setdim (w h : Nat)
  | pixel (c : Nat)
  | encode
  | rd8 (a : Nat)
  | rd16 (a : Nat)
  | rd32 (a : Nat)
  | wr32 (a v : Nat)
  | pixels (c n : Nat)
deriving DecidableEq, Repr

end Sys2Proof
end

