-- ==== Sys2Proof/WellFormed.lean ====
section
/-! DEFINITION. Which host-script lines are well formed (R78, R79). A value of `Instr` needs no check: its operand fields
have exactly the widths of the encoding (R72, R73), so an ill-formed command cannot be built. -/

namespace Sys2Proof

/-- R78: `0 <= w, h <= 511`. -/
def HostLine.dimFits (v : Nat) : Bool := v ≤ 511

/-- R78: `0 <= c <= 0xFFFFFF`. -/
def HostLine.colorFits (c : Nat) : Bool := c ≤ 0xFFFFFF

/-- R50: an address is a 16-bit byte address. -/
def HostLine.addrFits (a : Nat) : Bool := a ≤ 0xFFFF

/-- R50: write data is 32 bits. -/
def HostLine.dataFits (v : Nat) : Bool := v ≤ 0xFFFFFFFF

/-- The ranges R78 and R79 give the numbers of a host-script line. -/
def HostLine.wellFormed : HostLine → Bool
  | .nop => true
  | .clear => true
  | .setdim w h => dimFits w && dimFits h
  | .pixel c => colorFits c
  | .encode => true
  | .rd8 a => addrFits a
  | .rd16 a => addrFits a
  | .rd32 a => addrFits a
  | .wr32 a v => addrFits a && dataFits v
  | .pixels c n => colorFits c && decide (1 ≤ n)

end Sys2Proof
end

