-- ==== Sys2Proof/Decode.lean ====
section
/-! DEFINITION. Decoding a command word by the opcode map of R75, total on every 32-bit word and rejecting by name, and the
encoder written from the formats of R71 to R73. -/

namespace Sys2Proof

/-- The mnemonics of R75. -/
inductive Mnemonic where
  | nop | clear | setdim | pixel | encode
deriving DecidableEq, Repr

/-- One row of R75: a word selects the mnemonic exactly when its bits under the mask equal the match. -/
structure OpcodeRow where
  mnemonic : Mnemonic
  pattern  : Word
  mask     : Word
deriving DecidableEq, Repr

/-- Why a word is illegal (R76). -/
inductive Illegal where
  /-- OP is `0x5` to `0xF`. -/
  | reservedOpcode
  /-- OP is `0x0` to `0x4` and an RSV bit of its format is 1. -/
  | reservedBits
deriving DecidableEq, Repr

/-- What the decoder reads from a word. -/
inductive Decoded where
  | ok (i : Instr)
  | illegal (why : Illegal)
deriving DecidableEq, Repr

/-- The word whose bits from `lo` on are `v`, every other bit 0 (R8): the field `[lo + n - 1 : lo]` of a field table. -/
def placeField {n : Nat} (lo : Nat) (v : BitVec n) : Word := v.setWidth 32 <<< lo

/-- OP = `cmd[31:28]` (R70). -/
def opField (cmd : Word) : BitVec 4 := cmd.extractLsb' 28 4

/-- WIDTH = `zext(cmd[8:0])` (R74). -/
def widthField (cmd : Word) : Dim := cmd.extractLsb' 0 9

/-- HEIGHT = `zext(cmd[24:16])` (R74). -/
def heightField (cmd : Word) : Dim := cmd.extractLsb' 16 9

/-- COLOR = `cmd[23:0]` (R74). -/
def colorField (cmd : Word) : Color := cmd.extractLsb' 0 24

/-- The opcode map of R75, fixed bits as match and mask. -/
def opcodeTable : List OpcodeRow :=
  [ ⟨.nop,    0x00000000#32, 0xFFFFFFFF#32⟩,
    ⟨.clear,  0x10000000#32, 0xFFFFFFFF#32⟩,
    ⟨.setdim, 0x20000000#32, 0xFE00FE00#32⟩,
    ⟨.pixel,  0x30000000#32, 0xFF000000#32⟩,
    ⟨.encode, 0x40000000#32, 0xFFFFFFFF#32⟩ ]

/-- R75: `(cmd & mask) = match`. -/
def OpcodeRow.selects (r : OpcodeRow) (cmd : Word) : Bool := cmd &&& r.mask == r.pattern

/-- Operand assembly (R74) for the row that was selected. -/
def assembleOperands (m : Mnemonic) (cmd : Word) : Instr :=
  match m with
  | .nop => .nop
  | .clear => .clear
  | .setdim => .setdim (widthField cmd) (heightField cmd)
  | .pixel => .pixel (colorField cmd)
  | .encode => .encode

/-- Which of the two conditions of R76 makes a word that no row selects illegal. -/
def illegalReason (cmd : Word) : Illegal :=
  if 5 ≤ (opField cmd).toNat then .reservedOpcode else .reservedBits

/-- The decoder (R75, R76): the row that selects the word, or the reason there is none. -/
def decode (cmd : Word) : Decoded :=
  match opcodeTable.find? (fun r => r.selects cmd) with
  | some r => .ok (assembleOperands r.mnemonic cmd)
  | none => .illegal (illegalReason cmd)

/-- The command word of an instruction, field by field: OP at bit 28 (R70), and by format nothing else (R71), HEIGHT at bit 16 and WIDTH
at bit 0 (R72), or COLOR at bit 0 (R73); the RSV bits are 0. -/
def encode : Instr → Word
  | .nop => placeField 28 0x0#4
  | .clear => placeField 28 0x1#4
  | .setdim w h => placeField 28 0x2#4 ||| placeField 16 h ||| placeField 0 w
  | .pixel c => placeField 28 0x3#4 ||| placeField 0 c
  | .encode => placeField 28 0x4#4

/-- The word the opcode table numbers as `w` with `nbits` bits, the bits above `nbits` zero. -/
def tableWord (nbits w : Nat) : Word := BitVec.ofNat 32 (w % 2 ^ nbits)

/-- The instruction the decoder reads from an opcode-table word; none where the word is illegal. -/
def decodeTableWord (nbits w : Nat) : Option Instr :=
  match decode (tableWord nbits w) with
  | .ok i => some i
  | .illegal _ => none

end Sys2Proof
end

