-- ==== Sys2Proof/Config.lean ====
section
/-! DEFINITION. What is fixed for the block: the parameters of R7, the constants of the register map, and the one
value the spec leaves open (the IndexGrid's content after reset). -/

namespace Sys2Proof

/-- `TILE_DIM` of R7: pixels per tile side. -/
@[simp] abbrev Config.tileDim : Nat := 8

/-- `MAX_DIM` of R7: the largest width or height in pixels, and the side of the IndexGrid memory (R28). -/
@[simp] abbrev Config.maxDim : Nat := 256

/-- `BYTES_PER_TILE` of R7. -/
@[simp] abbrev Config.bytesPerTile : Nat := 16

/-- `MAX_COLORS` of R7: palette entries. -/
@[simp] abbrev Config.maxColors : Nat := 4

/-- `TILESET_BYTES_MAX` of R7: the size of the TileSet window (R52). -/
@[simp] abbrev Config.tilesetBytesMax : Nat := 16384

/-- The first address of the TileSet window (R52). -/
@[simp] abbrev Config.windowBase : Nat := 0x4000

/-- The size in bytes of the register region (R52). -/
@[simp] abbrev Config.registerBytes : Nat := 0x30

/-- The constant of the ID register, the ASCII bytes of GBTE (R31). -/
abbrev Config.idValue : Word := 0x47425445#32

/-- FREE VALUE (assumption log entry 1; I1 of 93_implementation_defined.md, treatment `any value` per cell). What IndexGrid
cell number `key` holds after the reset numbered `gen` until a PIXEL command writes it. R28 and R43: unspecified, any 2-bit value. -/
opaque Config.unspecifiedCell : (gen : Nat) → (key : Nat) → PalIndex

end Sys2Proof
end

