-- ==== Sys2Proof/Machine/State.lean ====
section
/-! DEFINITION. The state of the block (10_state.md), as plain data, with the bus cycles that wait at its port, and the state
right after reset (R43, R190). -/

namespace Sys2Proof.Machine

/-- The job state `STATE` (R23). The 3-bit encodings are in Flags.lean; the values 5, 6 and 7, which R23 says are never held,
cannot be built. -/
inductive JobState where
  | idle
  | loading
  | loaded
  | done
  | error
deriving DecidableEq, Repr

/-- The error code `ERR` (R25). The 4-bit encodings are in Flags.lean; the values 5 to 15, which R25 says are never held,
cannot be built. -/
inductive ErrCode where
  | noError
  | dimension
  | tooManyColors
  | illegalCommand
  | sequence
deriving DecidableEq, Repr

/-- What `raise Error(code, info)` is given (R10, R160): the code, and for TOO_MANY_COLORS the pixel and its colour. -/
inductive JobError where
  | dimension
  | tooManyColors (x y : Nat) (c : Color)
  | illegalCommand
  | sequence
deriving DecidableEq, Repr

/-- The IndexGrid memory `Idx` (R28): the written cells as pairs of cell number `256 * y + x` and 2-bit value, cell numbers strictly
rising. A cell that is not listed has not been written since the last reset. -/
abbrev Memory := List (Nat × PalIndex)

/-- The palette colours `PAL_COLOR[0..3]` (R27). -/
abbrev PaletteColors := Vector Color 4

/-- The input pins in one clock cycle (R51): `rst_n`, `sel`, `we`, `addr`, `size`, `wdata`. -/
structure BusCycle where
  rstN  : Bool
  sel   : Bool
  we    : Bool
  addr  : Addr
  size  : BitVec 2
  wdata : Word
deriving DecidableEq, Repr

/-- The state of the block. The last three fields are the model's own: they are not elements of R43. -/
structure State where
  /-- `STATE` (R23). -/
  state      : JobState
  /-- `ERR` (R25). -/
  err        : ErrCode
  /-- `W` (R26). -/
  w          : Dim
  /-- `H` (R26). -/
  h          : Dim
  /-- `PIXCOUNT` (R29). -/
  pixcount   : BitVec 17
  /-- `PAL_N` (R27). -/
  palN       : BitVec 3
  /-- `PAL_COLOR[0..3]` (R27). -/
  palColor   : PaletteColors
  /-- `ERR_X` (R30). -/
  errX       : BitVec 8
  /-- `ERR_Y` (R30). -/
  errY       : BitVec 8
  /-- `ERR_CLR` (R30). -/
  errClr     : Color
  /-- `Idx` (R28). -/
  idx        : Memory
  /-- MODEL'S OWN (log entry 1): how many resets there have been since the first, the argument of the free value of an unwritten
  cell. -/
  resetCount : Nat
  /-- MODEL'S OWN (log entry 2): the clock cycles that the host will present at the port, the next one first (R50, R62). -/
  pending    : List BusCycle
  /-- The output pins `rdata` (R51): the read data in the cycle of a read, none in a cycle that reads nothing (log entry 3). -/
  rdata      : Option Word
deriving DecidableEq, Repr

/-- The state right after reset (R43, R190), with no bus cycle waiting. -/
def State.reset : State where
  state := .idle
  err := .noError
  w := 0
  h := 0
  pixcount := 0
  palN := 0
  palColor := Vector.replicate 4 0
  errX := 0
  errY := 0
  errClr := 0
  idx := []
  resetCount := 0
  pending := []
  rdata := none

/-- Why the machine stops with a fault: never. R51: every transaction completes in its cycle and errors are reported only
through STATUS; R53: no access traps; R57: reserved accesses read 0 or are ignored. The type has no constructor, so no meaning can
fault. -/
inductive Fault where
deriving DecidableEq, Repr

/-- Why an instruction is refused. -/
inductive Refusal where
  /-- Raised by exec's arm of an instruction that has no meaning yet, and by nothing else; no arm of this model does. Safe: the
  machine stops where the hardware goes on. -/
  | notModelled (mnemonic : String)
deriving DecidableEq, Repr

end Sys2Proof.Machine
end

