-- ==== Sys2Proof/Machine/Flags.lean ====
section
/-! DEFINITION. The encodings of `STATE` and `ERR` and the fields of STATUS, the block's only flags (R23, R25, R33, R40). -/

namespace Sys2Proof.Machine

/-- The 3-bit encoding of `STATE` (R23). -/
def JobState.code : JobState → BitVec 3
  | .idle => 0
  | .loading => 1
  | .loaded => 2
  | .done => 3
  | .error => 4

/-- The 4-bit encoding of `ERR` (R25, R161). -/
def ErrCode.code : ErrCode → BitVec 4
  | .noError => 0
  | .dimension => 1
  | .tooManyColors => 2
  | .illegalCommand => 3
  | .sequence => 4

/-- The code that an error records in `ERR` (R161). -/
def JobError.errCode : JobError → ErrCode
  | .dimension => .dimension
  | .tooManyColors _ _ _ => .tooManyColors
  | .illegalCommand => .illegalCommand
  | .sequence => .sequence

/-- STATUS (R33): STATE in `[2:0]`, ERR in `[7:4]`, COLOR_COUNT in `[10:8]`. -/
def State.statusWord (s : State) : Word :=
  placeField 8 s.palN ||| placeField 4 s.err.code ||| placeField 0 s.state.code

end Sys2Proof.Machine
end

