-- ==== Sys2Proof/Machine/Operands.lean ====
section
/-! DEFINITION. The operand forms: the dimension predicate of SETDIM (R103), the pixel cursor of PIXEL (R22), the palette lookup
(R120), and the sizes and effective addresses of host transactions (R50, R53). The fields of a command word are in Decode.lean (R74). -/

namespace Sys2Proof.Machine

/-- `dim_ok(v)` of R103. -/
def dimOk (v : Dim) : Bool :=
  decide (Config.tileDim ≤ v.toNat) && decide (v.toNat ≤ Config.maxDim) && decide (v.toNat % Config.tileDim = 0)

/-- `cur_x` of R22: the column of the next pixel. -/
def State.curX (s : State) : Nat := s.pixcount.toNat % s.w.toNat

/-- `cur_y` of R22: the row of the next pixel. -/
def State.curY (s : State) : Nat := s.pixcount.toNat / s.w.toNat

/-- Palette entry `i` is valid exactly when `i < PAL_N` (R27). -/
def State.palValid (s : State) (i : PalIndex) : Bool := decide (i.toNat < s.palN.toNat)

/-- `PAL_COLOR[i]` (R27). -/
def State.palEntry (s : State) (i : PalIndex) : Color := s.palColor[i.toNat]'i.isLt

/-- `lookup(c)` of R120; none is MISS. The valid entries are pairwise distinct (R27), so at most one index matches. -/
def State.lookup (s : State) (c : Color) : Option PalIndex :=
  [0#2, 1#2, 2#2, 3#2].find? fun i => s.palValid i && s.palEntry i == c

/-- The size of a transaction (R50), with the reserved code (R51, R57). -/
inductive AccessSize where
  | one | two | four | reserved
deriving DecidableEq, Repr

/-- The `size` pins (R51). -/
def AccessSize.ofCode (code : BitVec 2) : AccessSize :=
  if code = 0 then .one else if code = 1 then .two else if code = 2 then .four else .reserved

/-- The `size` pins that ask for this size (R51). -/
def AccessSize.code : AccessSize → BitVec 2
  | .one => 0
  | .two => 1
  | .four => 2
  | .reserved => 3

/-- How many bytes the access takes; the reserved code takes none. -/
def AccessSize.bytes : AccessSize → Nat
  | .one => 1
  | .two => 2
  | .four => 4
  | .reserved => 0

/-- The effective address `addr & ~(size - 1)` (R53). -/
def effectiveAddress (addr : Addr) (size : AccessSize) : Addr :=
  addr &&& ~~~(BitVec.ofNat 16 (size.bytes - 1))

/-- A host transaction (R50): its kind, address, size and write data. -/
inductive Transaction where
  | read  (addr : Addr) (size : AccessSize)
  | write (addr : Addr) (size : AccessSize) (wdata : Word)
deriving DecidableEq, Repr

/-- The transaction that the pins present (R51); none while `sel` is 0. -/
def BusCycle.transaction (c : BusCycle) : Option Transaction :=
  if c.sel then
    some (if c.we then .write c.addr (AccessSize.ofCode c.size) c.wdata else .read c.addr (AccessSize.ofCode c.size))
  else none

/-- The clock cycle that presents a transaction outside reset; a read drives no write data (R50: ignored for a read). -/
def Transaction.cycle : Transaction → BusCycle
  | .read a z => { rstN := true, sel := true, we := false, addr := a, size := z.code, wdata := 0 }
  | .write a z d => { rstN := true, sel := true, we := true, addr := a, size := z.code, wdata := d }

/-- The address of CMD (R32). -/
abbrev cmdAddr : Addr := 0x0004#16

/-- The transaction that delivers a command word: a 4-byte write to CMD (R55, R70). -/
def Transaction.command (cmd : Word) : Transaction := .write cmdAddr .four cmd

end Sys2Proof.Machine
end

