-- ==== Sys2Proof/Machine/Ops.lean ====
section
/-! DEFINITION. The operations the meanings share: the IndexGrid memory, the palette and counter updates, the derived geometry, entering
ERROR and leaving it, and reset. -/

namespace Sys2Proof.Machine

/-! ### The IndexGrid memory (R28) -/

/-- The canonical form: cell numbers strictly rising. An unlisted cell has no value listed, so no entry can repeat one. -/
abbrev Memory.wf (m : Memory) : Prop := (m.map Prod.fst).Pairwise (· < ·)

/-- The value written to a cell since the last reset, if any. -/
def Memory.read? : Memory → Nat → Option PalIndex
  | [], _ => none
  | (k, v) :: m, key => if k = key then some v else Memory.read? m key

/-- Write a cell, keeping the cell numbers strictly rising. -/
def Memory.write : Memory → Nat → PalIndex → Memory
  | [], key, v => [(key, v)]
  | (k, u) :: m, key, v =>
    if key < k then (key, v) :: (k, u) :: m
    else if key = k then (key, v) :: m
    else (k, u) :: Memory.write m key v

/-- The number of cell `Idx[y][x]`: 8 bits of row, 8 bits of column (R28: `0 <= x < 256`, `0 <= y < 256`). -/
def cellKey (y x : Nat) : Nat := Config.maxDim * (y % Config.maxDim) + x % Config.maxDim

/-- `Idx[y][x]` (R10, R28): the value last written to the cell since reset, else the cell's unspecified reset content. -/
def State.cell (s : State) (y x : Nat) : PalIndex :=
  match s.idx.read? (cellKey y x) with
  | some v => v
  | none => Config.unspecifiedCell s.resetCount (cellKey y x)

/-- `Idx[y][x] <- v` (R10). -/
def State.setCell (s : State) (y x : Nat) (v : PalIndex) : State :=
  { s with idx := s.idx.write (cellKey y x) v }

/-! ### Derived geometry (R26) -/

/-- `TC = W div 8`. -/
def State.tileCols (s : State) : Nat := s.w.toNat / Config.tileDim

/-- `TR = H div 8`. -/
def State.tileRows (s : State) : Nat := s.h.toNat / Config.tileDim

/-- `NT = TC * TR`. -/
def State.tileCount (s : State) : Nat := s.tileCols * s.tileRows

/-- `NPIX = W * H`. -/
def State.npix (s : State) : Nat := s.w.toNat * s.h.toNat

/-! ### The palette and the pixel counter (R27, R29) -/

/-- The index a new colour takes: the next unused one, `PAL_N` (R121). -/
def State.nextIndex (s : State) : PalIndex := s.palN.setWidth 2

/-- Record a new colour: `PAL_COLOR[PAL_N] <- c`, then `PAL_N <- PAL_N + 1` (R121). -/
def State.addColor (s : State) (c : Color) : State :=
  { s with palColor := s.palColor.set s.nextIndex.toNat c s.nextIndex.isLt, palN := s.palN + 1 }

/-- The end of an accepted PIXEL (R121): the counter advances, and the last pixel completes the image. -/
def State.countPixel (s : State) : State :=
  let n := s.pixcount + 1
  { s with pixcount := n, state := if n.toNat = s.npix then .loaded else s.state }

/-! ### Entering ERROR and leaving it -/

/-- `raise Error(code, info)` (R160): STATE and ERR, and for TOO_MANY_COLORS the pixel and its colour; nothing else. -/
def raiseError (e : JobError) (s : State) : State :=
  match e with
  | .tooManyColors x y c =>
    { s with state := .error, err := e.errCode, errX := BitVec.ofNat 8 x, errY := BitVec.ofNat 8 y, errClr := c }
  | .dimension => { s with state := .error, err := e.errCode }
  | .illegalCommand => { s with state := .error, err := e.errCode }
  | .sequence => { s with state := .error, err := e.errCode }

/-- Abandon the job and return to IDLE, the only way out of ERROR but reset (R101, R164). `Idx` is not written. -/
def clearJob (s : State) : State :=
  { s with
    state := .idle, err := .noError, w := 0, h := 0, pixcount := 0, palN := 0, palColor := Vector.replicate 4 0,
    errX := 0, errY := 0, errClr := 0 }

/-- While STATE is ERROR a command is ignored (R163, R76); otherwise it has its effect. -/
def unlessError (s effect : State) : State := if s.state = .error then s else effect

/-- An illegal word: ILLEGAL_COMMAND outside ERROR, ignored in ERROR (R76). -/
def illegalWord (s : State) : State := unlessError s (raiseError .illegalCommand s)

/-! ### Reset (R190) -/

/-- A cycle with `rst_n` at 0: every element of R43 takes its reset value, and every IndexGrid cell a fresh unspecified one. The
cycles that still wait at the port stay. -/
def resetBlock (s : State) : State :=
  { State.reset with resetCount := s.resetCount + 1, pending := s.pending }

end Sys2Proof.Machine
end

