-- ==== Sys2Proof/Machine/Palette.lean ====
section
/-! DEFINITION. The palette quantizer: PIXEL (41_palette_quantizer.md). -/

namespace Sys2Proof.Machine

/-- The pixel at the cursor is accepted with index `i` (R121): its cell is written, then the counter advances. -/
def acceptPixel (i : PalIndex) (s : State) : State :=
  (s.setCell s.curY s.curX i).countPixel

/-- A pixel delivered in LOADING (R121): reuse the colour's index, or assign the next one, or TOO_MANY_COLORS. -/
def deliverPixel (c : Color) (s : State) : State :=
  match s.lookup c with
  | some i => acceptPixel i s
  | none =>
    if s.palN.toNat = Config.maxColors then raiseError (.tooManyColors s.curX s.curY c) s
    else acceptPixel s.nextIndex (s.addColor c)

/-- PIXEL c (R121). -/
def execPixel (c : Color) (s : State) : Host.Outcome State Fault Refusal :=
  .next <| unlessError s <|
    if s.state ≠ .loading then raiseError .sequence s else deliverPixel c s

end Sys2Proof.Machine
end

