-- ==== Sys2Proof/Machine/Setup.lean ====
section
/-! DEFINITION. The setup commands NOP, CLEAR and SETDIM (40_setup.md). -/

namespace Sys2Proof.Machine

/-- NOP (R100): no operation, in every state. -/
def execNop (s : State) : Host.Outcome State Fault Refusal := .next s

/-- CLEAR (R101): abandon the job and return to IDLE; accepted in every state, ERROR too. -/
def execClear (s : State) : Host.Outcome State Fault Refusal := .next (clearJob s)

/-- An accepted SETDIM (R102). -/
def openJob (w h : Dim) (s : State) : State :=
  { s with w := w, h := h, pixcount := 0, state := .loading }

/-- SETDIM w, h (R102): SEQUENCE is checked before the dimensions (R162). -/
def execSetdim (w h : Dim) (s : State) : Host.Outcome State Fault Refusal :=
  .next <| unlessError s <|
    if s.state ≠ .idle then raiseError .sequence s
    else if !dimOk w || !dimOk h then raiseError .dimension s
    else openJob w h s

end Sys2Proof.Machine
end

