-- ==== Sys2Proof/Machine/TileEncoder.lean ====
section
/-! DEFINITION. The bitplane tile encoder: ENCODE and the TileSet byte function (42_tile_encoder.md). -/

namespace Sys2Proof.Machine

/-- ENCODE (R140): LOADED becomes DONE, DONE stays, IDLE and LOADING raise SEQUENCE. -/
def execEncode (s : State) : Host.Outcome State Fault Refusal :=
  .next <| unlessError s <|
    if s.state = .loaded then { s with state := .done }
    else if s.state = .done then s
    else raiseError .sequence s

/-- The two planes of a tile row (R142): 0 low, 1 high. -/
inductive Plane where
  | low | high
deriving DecidableEq, Repr

/-- `lo(v) = v[0]` and `hi(v) = v[1]` (R143, R145). -/
def planeBit (p : Plane) (v : PalIndex) : Bool :=
  match p with
  | .low => v.getLsbD 0
  | .high => v.getLsbD 1

/-- The sum over `j = 0..7` of bit `j` shifted left by `7 - j` (R143): bit 7 of the byte is the leftmost. -/
def packByte (bit : Nat → Bool) : Byte :=
  (List.range 8).foldl (fun acc j => acc + (BitVec.ofBool (bit j)).setWidth 8 <<< (7 - j)) 0

/-- `plane_byte(y, x0, p)` (R143). -/
def State.planeByte (s : State) (y x0 : Nat) (p : Plane) : Byte :=
  packByte fun j => planeBit p (s.cell y (x0 + j))

/-- The plane of byte `k` of a tile, `p = k mod 2` (R142). -/
def planeOfByte (k : Nat) : Plane := if k % 2 = 0 then .low else .high

/-- `Out(a)` (R142): byte `a` of the TileSet in DONE, `0x00` outside DONE and beyond the TileSet. -/
def State.tileSetByte (s : State) (a : Nat) : Byte :=
  if s.state ≠ .done ∨ Config.bytesPerTile * s.tileCount ≤ a then 0x00
  else
    let t := a / Config.bytesPerTile
    let k := a % Config.bytesPerTile
    let tr := t / s.tileCols
    let tc := t % s.tileCols
    s.planeByte (Config.tileDim * tr + k / 2) (Config.tileDim * tc) (planeOfByte k)

end Sys2Proof.Machine
end

