-- ==== Sys2Proof/Machine/Dispatch.lean ====
section
/-! DEFINITION. The dispatch: one arm per command of R75. -/

namespace Sys2Proof.Machine

def exec (i : Instr) (s : State) : Host.Outcome State Fault Refusal :=
  match i with
  | .nop => Sys2Proof.Machine.execNop s
  | .clear => Sys2Proof.Machine.execClear s
  | .setdim w h => Sys2Proof.Machine.execSetdim w h s
  | .pixel c => Sys2Proof.Machine.execPixel c s
  | .encode => Sys2Proof.Machine.execEncode s

end Sys2Proof.Machine
end

