-- ==== Sys2Proof/Machine/Registers.lean ====
section
/-! DEFINITION. What the host reads: the registers of 10_state.md section 4, the address map (R52) and the reads of the register region
and the TileSet window (R54, R56, R57). -/

namespace Sys2Proof.Machine

/-- The host-visible registers (R31 to R39). -/
inductive RegName where
  | id | cmd | status | dim | pixcount | errPos | errColor | geom | pal (i : PalIndex)
deriving DecidableEq, Repr

/-- The offsets of R31 to R39, which are also the registers' addresses (R52). -/
def RegName.offset : RegName → Addr
  | .id => 0x000
  | .cmd => 0x004
  | .status => 0x008
  | .dim => 0x00C
  | .pixcount => 0x010
  | .errPos => 0x014
  | .errColor => 0x018
  | .geom => 0x01C
  | .pal i => 0x020 + i.setWidth 16 <<< 2

/-- The register at word number `n` of the register region (its offset is `4 * n`). -/
def registerAt (n : Nat) : Option RegName :=
  match n with
  | 0 => some .id
  | 1 => some .cmd
  | 2 => some .status
  | 3 => some .dim
  | 4 => some .pixcount
  | 5 => some .errPos
  | 6 => some .errColor
  | 7 => some .geom
  | 8 => some (.pal 0)
  | 9 => some (.pal 1)
  | 10 => some (.pal 2)
  | 11 => some (.pal 3)
  | _ => none

/-- DIM (R34): WIDTH in `[8:0]`, HEIGHT in `[24:16]`. -/
def State.dimWord (s : State) : Word := placeField 16 s.h ||| placeField 0 s.w

/-- PIXCOUNT (R35): the count in `[16:0]`. -/
def State.pixcountWord (s : State) : Word := placeField 0 s.pixcount

/-- ERR_POS (R36): X in `[7:0]`, Y in `[23:16]`. -/
def State.errPosWord (s : State) : Word := placeField 16 s.errY ||| placeField 0 s.errX

/-- ERR_COLOR (R37): the colour in `[23:0]`. -/
def State.errColorWord (s : State) : Word := placeField 0 s.errClr

/-- GEOM (R38): TILE_COLS in `[5:0]`, TILE_ROWS in `[13:8]`, TILE_COUNT in `[26:16]`. -/
def State.geomWord (s : State) : Word :=
  placeField 16 (BitVec.ofNat 11 s.tileCount) ||| placeField 8 (BitVec.ofNat 6 s.tileRows) |||
    placeField 0 (BitVec.ofNat 6 s.tileCols)

/-- PALi (R39): COLOR in `[23:0]`, VALID in bit 31; all zero where the entry is not valid. -/
def State.palWord (s : State) (i : PalIndex) : Word :=
  if s.palValid i then placeField 31 1#1 ||| placeField 0 (s.palEntry i) else 0

/-- The 32-bit value of a register (R31 to R39). CMD reads 0 (R32). -/
def State.readReg (s : State) : RegName → Word
  | .id => Config.idValue
  | .cmd => 0
  | .status => s.statusWord
  | .dim => s.dimWord
  | .pixcount => s.pixcountWord
  | .errPos => s.errPosWord
  | .errColor => s.errColorWord
  | .geom => s.geomWord
  | .pal i => s.palWord i

/-- The regions of the address map (R52). -/
inductive Region where
  | registers | tileSet | reserved
deriving DecidableEq, Repr

/-- The region an effective address lies in (R52). -/
def regionOf (ea : Addr) : Region :=
  if ea.toNat < Config.registerBytes then .registers
  else if Config.windowBase ≤ ea.toNat ∧ ea.toNat < Config.windowBase + Config.tilesetBytesMax then .tileSet
  else .reserved

/-- A read of `n` bytes of the register region (R54): the little-endian bytes of the register at `ea & ~3`, from byte `ea & 3` on. -/
def State.readRegisterBytes (s : State) (ea : Addr) (n : Nat) : Word :=
  match registerAt (ea.toNat / 4) with
  | some r => ((s.readReg r).extractLsb' (8 * (ea.toNat % 4)) (8 * n)).setWidth 32
  | none => 0

/-- A read of `n` bytes of the TileSet window from window byte `a` on, the lowest in bits 7 to 0 (R56). -/
def State.readWindowBytes (s : State) (a : Nat) : Nat → Word
  | 0 => 0
  | n + 1 => (s.tileSetByte a).setWidth 32 ||| s.readWindowBytes (a + 1) n <<< 8

/-- `MemRead(addr, size)`: what a host read returns (R53, R54, R56, R57). -/
def State.busRead (s : State) (addr : Addr) (size : AccessSize) : Word :=
  if size = .reserved then 0
  else
    let ea := effectiveAddress addr size
    match regionOf ea with
    | .registers => s.readRegisterBytes ea size.bytes
    | .tileSet => s.readWindowBytes (ea.toNat - Config.windowBase) size.bytes
    | .reserved => 0

end Sys2Proof.Machine
end

