-- ==== Sys2Proof/Machine/Bus.lean ====
section
/-! DEFINITION. What one host transaction and one clock cycle of the port do (20_memory.md, R190). -/

namespace Sys2Proof.Machine

/-- A command word is delivered (R76): an illegal word raises ILLEGAL_COMMAND, a legal one is performed. Both are ignored in ERROR but for
CLEAR, which the meanings and `illegalWord` see to. -/
def performCommand (cmd : Word) (s : State) : Host.Outcome State Fault Refusal :=
  match decode cmd with
  | .ok i => exec i s
  | .illegal _ => .next (illegalWord s)

/-- A host write (R55, R56, R57): only a 4-byte write whose effective address is CMD has an effect. -/
def busWrite (addr : Addr) (size : AccessSize) (wdata : Word) (s : State) : Host.Outcome State Fault Refusal :=
  if size = .four ∧ effectiveAddress addr size = cmdAddr then performCommand wdata s else .next s

/-- One host transaction (R50): a read drives `rdata` and changes nothing else (R59). -/
def performTransaction (t : Transaction) (s : State) : Host.Outcome State Fault Refusal :=
  match t with
  | .read addr size => .next { s with rdata := some (s.busRead addr size) }
  | .write addr size wdata => busWrite addr size wdata s

/-- What a read returns while `rst_n` is 0: zero (R190). -/
def readDataInReset (c : BusCycle) : Option Word :=
  match c.transaction with
  | some (.read _ _) => some 0
  | _ => none

/-- One clock cycle (R51, R190). In reset the transaction is ignored and every element takes its reset value; a cycle without `sel`
changes nothing; else the transaction is performed. -/
def performCycle (c : BusCycle) (s : State) : Host.Outcome State Fault Refusal :=
  if c.rstN then
    match c.transaction with
    | none => .next { s with rdata := none }
    | some t => performTransaction t { s with rdata := none }
  else .next { resetBlock s with rdata := readDataInReset c }

/-- No cycle is waiting: the block holds its state (R20, R174). -/
def idleCycle (s : State) : State := { s with rdata := none }

/-- The next cycle that waits at the port, performed; it is consumed (R62, R65). -/
def takeCycle (s : State) : Host.Outcome State Fault Refusal :=
  match s.pending with
  | [] => .next (idleCycle s)
  | c :: rest => performCycle c { s with pending := rest }

/-- The bus cycle that delivers a command word is put before those that wait. -/
def presentCommand (cmd : Word) (s : State) : State :=
  { s with pending := (Transaction.command cmd).cycle :: s.pending }

end Sys2Proof.Machine
end

