-- ==== Sys2Proof/Machine/Step.lean ====
section
/-! DEFINITION. One step of the machine: one clock cycle of the port (R6, R51). -/

namespace Sys2Proof.Machine

/-- One step: the next bus cycle that waits is performed. -/
def step (s : State) : Host.Outcome State Fault Refusal := takeCycle s

/-- `s` with the table word waiting as the very next bus cycle, a 4-byte write of it to CMD (R70). -/
def State.withFetchWord (s : State) (nbits w : Nat) : State := presentCommand (tableWord nbits w) s

end Sys2Proof.Machine
end

