-- ==== Sys2Proof/Machine/Script.lean ====
section
/-! DEFINITION. The host-script syntax (R78) and its pseudo-instruction (R79): the bus cycles each line stands for. -/

namespace Sys2Proof.Machine

/-- The word of `SETDIM w, h` as R78 writes it: `0x20000000 | (h << 16) | w`. -/
def setdimScriptWord (w h : Nat) : Word := BitVec.ofNat 32 (0x20000000 ||| h <<< 16 ||| w)

/-- The word of `PIXEL c` as R78 writes it: `0x30000000 | c`. -/
def pixelScriptWord (c : Nat) : Word := BitVec.ofNat 32 (0x30000000 ||| c)

/-- The transactions of a well-formed line, in order; an ill-formed line stands for none. -/
def lineTransactions (l : HostLine) : Option (List Transaction) :=
  if l.wellFormed then
    some <| match l with
      | .nop => [.command 0x00000000#32]
      | .clear => [.command 0x10000000#32]
      | .setdim w h => [.command (setdimScriptWord w h)]
      | .pixel c => [.command (pixelScriptWord c)]
      | .encode => [.command 0x40000000#32]
      | .rd8 a => [.read (BitVec.ofNat 16 a) .one]
      | .rd16 a => [.read (BitVec.ofNat 16 a) .two]
      | .rd32 a => [.read (BitVec.ofNat 16 a) .four]
      | .wr32 a v => [.write (BitVec.ofNat 16 a) .four (BitVec.ofNat 32 v)]
      | .pixels c n => List.replicate n (.command (pixelScriptWord c))
  else none

/-- The address that `TILE+k` stands for in a script (R78). -/
def tileAddress (k : Nat) : Nat := Config.windowBase + k

/-- The address that a register's name stands for in a script (R78). -/
def registerAddress (r : RegName) : Nat := r.offset.toNat

/-- The bus cycles of a script's lines, in order; none where a line is ill formed. -/
def scriptCycles : List HostLine → Option (List BusCycle)
  | [] => some []
  | l :: ls =>
    match lineTransactions l, scriptCycles ls with
    | some ts, some cs => some (ts.map Transaction.cycle ++ cs)
    | _, _ => none

end Sys2Proof.Machine
end

