-- ==== Sys2Proof/Safety.lean ====
section
/-! DEFINITION. What claims are stated in terms of: the invariants of R42 with those of R26, R27 and R30, what a host read can tell apart,
and the delivery of many pixels. -/

namespace Sys2Proof.Machine

/-- A legal image dimension: one of the 32 values 8, 16, ..., 256 (R26, R103). -/
def legalDim (v : Dim) : Prop := ∃ k, 1 ≤ k ∧ k ≤ 32 ∧ v.toNat = 8 * k

/-- The job is open: STATE is LOADING, LOADED or DONE. -/
def State.jobOpen (s : State) : Bool := s.state = .loading || s.state = .loaded || s.state = .done

/-- The pixels received so far: columns of the image whose row-major number is below PIXCOUNT. -/
def State.received (s : State) (y x : Nat) : Prop := x < s.w.toNat ∧ y * s.w.toNat + x < s.pixcount.toNat

/-- The invariants of every reachable state. -/
structure State.Inv (s : State) : Prop where
  /-- The IndexGrid memory keeps its canonical form. -/
  memory_wf : Memory.wf s.idx
  /-- R42 item 1, R27. -/
  palN_le : s.palN.toNat ≤ 4
  /-- R42 item 1, R27: the valid entries are pairwise distinct. -/
  colors_distinct : ∀ i j : PalIndex, s.palValid i → s.palValid j → s.palEntry i = s.palEntry j → i = j
  /-- R42 item 2. -/
  pixcount_le : s.pixcount.toNat ≤ s.npix
  /-- R42 item 2. -/
  loading_lt : s.state = .loading → s.pixcount.toNat < s.npix
  /-- R42 item 2, R29. -/
  complete : s.state = .loaded ∨ s.state = .done → s.pixcount.toNat = s.npix
  /-- R42 item 3, R26. -/
  idle_zero : s.state = .idle → s.w = 0 ∧ s.h = 0 ∧ s.pixcount = 0 ∧ s.palN = 0 ∧ s.err = .noError
  /-- R26: the legal dimensions while a job is open. -/
  open_dims : s.jobOpen → dimOk s.w ∧ dimOk s.h
  /-- R26: in ERROR the dimensions are both zero (entered from IDLE) or both legal. -/
  error_dims : s.state = .error → (s.w = 0 ∧ s.h = 0) ∨ (dimOk s.w ∧ dimOk s.h)
  /-- R42 item 4: a received pixel has a palette entry. -/
  some_color : s.jobOpen → 1 ≤ s.pixcount.toNat → 1 ≤ s.palN.toNat
  /-- R27, R121: an entry is added by an accepted pixel only, one for each, so there are no more entries than pixels (log entry 5). -/
  palN_le_pixcount : s.palN.toNat ≤ s.pixcount.toNat
  /-- R42 item 4 and R44: the cell of a received pixel was written in this job, and holds a valid index (log entry 4). -/
  cells_valid : s.jobOpen → ∀ y x, s.received y x → ∃ v, s.idx.read? (cellKey y x) = some v ∧ s.palValid v
  /-- R42 item 5, R25. -/
  err_iff : s.err = .noError ↔ s.state ≠ .error
  /-- R30: the error information is zero but for TOO_MANY_COLORS. -/
  err_info : s.err ≠ .tooManyColors → s.errX = 0 ∧ s.errY = 0 ∧ s.errClr = 0

/-- Two states that agree in every element of R43 but the IndexGrid, and in the cells of the pixels received in an open job: states R44 says
no host can tell apart. -/
structure State.Alike (s t : State) : Prop where
  state : s.state = t.state
  err : s.err = t.err
  w : s.w = t.w
  h : s.h = t.h
  pixcount : s.pixcount = t.pixcount
  palN : s.palN = t.palN
  palColor : s.palColor = t.palColor
  errX : s.errX = t.errX
  errY : s.errY = t.errY
  errClr : s.errClr = t.errClr
  cells : s.jobOpen → ∀ y x, s.received y x → s.cell y x = t.cell y x

/-- The transition table of R24, row by row: where a command may take STATE, with the error code where that is ERROR. -/
def allowedAfter (j : JobState) (m : Mnemonic) : List (JobState × ErrCode) :=
  match j, m with
  | .error, .clear => [(.idle, .noError)]
  | .error, _ => []
  | _, .clear => [(.idle, .noError)]
  | j, .nop => [(j, .noError)]
  | .idle, .setdim => [(.loading, .noError), (.error, .dimension)]
  | .idle, .pixel => [(.error, .sequence)]
  | .idle, .encode => [(.error, .sequence)]
  | .loading, .setdim => [(.error, .sequence)]
  | .loading, .pixel => [(.loading, .noError), (.loaded, .noError), (.error, .tooManyColors)]
  | .loading, .encode => [(.error, .sequence)]
  | .loaded, .setdim => [(.error, .sequence)]
  | .loaded, .pixel => [(.error, .sequence)]
  | .loaded, .encode => [(.done, .noError)]
  | .done, .setdim => [(.error, .sequence)]
  | .done, .pixel => [(.error, .sequence)]
  | .done, .encode => [(.done, .noError)]

/-- The row of R75 a command belongs to. -/
def mnemonicOf : Instr → Mnemonic
  | .nop => .nop
  | .clear => .clear
  | .setdim _ _ => .setdim
  | .pixel _ => .pixel
  | .encode => .encode

/-- The command word that a cycle delivers: outside reset, a 4-byte write whose effective address is CMD (R55). -/
def commandOf (c : BusCycle) : Option Word :=
  match c.rstN, c.transaction with
  | true, some (.write a .four d) => if effectiveAddress a .four = cmdAddr then some d else none
  | _, _ => none

/-- What the pins show after each of the next `n` steps: the read data of each cycle. -/
def readTrace : Nat → State → List (Option Word)
  | 0, _ => []
  | n + 1, s =>
    match step s with
    | .next t => t.rdata :: readTrace n t
    | .fault _ => []
    | .refused _ => []

/-- The state after the command words of a list, each delivered by `performCommand` in order. -/
def afterCommands : List Word → State → State
  | [], s => s
  | cmd :: cmds, s =>
    match performCommand cmd s with
    | .next t => afterCommands cmds t
    | .fault _ => s
    | .refused _ => s

/-- The distinct colours of a sequence in the order of first encounter: the source's Palette (R27, 41_palette_quantizer.md). -/
def firstSeen : List Color → List Color
  | [] => []
  | c :: cs => c :: (firstSeen cs).filter (· ≠ c)

end Sys2Proof.Machine
end

