-- ==== Sys2Proof/Certificates/Slice0/Obligations.lean ====
section
/-! DEFINITION. The statements about the block, from the numbered rules of spec/. A dimension is LEGAL when it is one of 8, 16, ..., 256. -/

open Sys2Proof Sys2Proof.Machine

/-- For every instruction i, with every operand at every value its field admits, decode (encode i) is i: no bit of an encoding
is dropped. -/
def Obligations.DecodeOfEncodeIsTheInstruction : Prop :=
  ∀ i : Instr, decode (encode i) = .ok i

/-- For every word cmd and instruction i, if cmd decodes to i then encode i is cmd: each legal word has one meaning and each
instruction one word. -/
def Obligations.EncodeOfDecodeIsTheWord : Prop :=
  ∀ (cmd : Word) (i : Instr), decode cmd = .ok i → encode i = cmd

/-- For all rows r1 and r2 of the opcode table and every word, if both rows select the word they are the same row. -/
def Obligations.NoWordMatchesTwoRows : Prop :=
  ∀ r₁ ∈ opcodeTable, ∀ r₂ ∈ opcodeTable, ∀ cmd : Word, r₁.selects cmd = true → r₂.selects cmd = true → r₁ = r₂

/-- For every word cmd: it decodes to NOP, CLEAR or ENCODE exactly when cmd under 0xFFFFFFFF is the match; to SETDIM w, h
exactly when cmd under 0xFE00FE00 is 0x20000000 and w and h are the numbers of bits [8:0] and [24:16]; to PIXEL c exactly when
cmd under 0xFF000000 is 0x30000000 and c is the number of bits [23:0]; and a word whose OP is 5 or more decodes to no
instruction. -/
def Obligations.WordSelectsMnemonicByMaskAndMatch : Prop :=
  ∀ cmd : Word,
    (decode cmd = .ok .nop ↔ cmd &&& 0xFFFFFFFF#32 = 0x00000000#32) ∧
    (decode cmd = .ok .clear ↔ cmd &&& 0xFFFFFFFF#32 = 0x10000000#32) ∧
    (∀ w h : Dim, decode cmd = .ok (.setdim w h) ↔
      cmd &&& 0xFE00FE00#32 = 0x20000000#32 ∧ w.toNat = cmd.toNat % 2 ^ 9 ∧ h.toNat = cmd.toNat / 2 ^ 16 % 2 ^ 9) ∧
    (∀ c : Color, decode cmd = .ok (.pixel c) ↔
      cmd &&& 0xFF000000#32 = 0x30000000#32 ∧ c.toNat = cmd.toNat % 2 ^ 24) ∧
    (decode cmd = .ok .encode ↔ cmd &&& 0xFFFFFFFF#32 = 0x40000000#32) ∧
    (5 ≤ cmd.toNat / 2 ^ 28 → ∀ i, decode cmd ≠ .ok i)

/-- A word is illegal exactly when its OP is 5 to 15, or its OP is 0 to 4 and an RSV bit of its format is 1; equivalently when
no row of the table selects it. A delivered word is ignored while STATE is ERROR unless it is 0x10000000; otherwise an illegal
word raises ILLEGAL_COMMAND and a legal one is performed. -/
def Obligations.IllegalWordsRaiseOrAreIgnored : Prop :=
  (∀ cmd : Word, (∃ why, decode cmd = .illegal why) ↔
    5 ≤ cmd.toNat / 2 ^ 28 ∨
    ((cmd.toNat / 2 ^ 28 = 0 ∨ cmd.toNat / 2 ^ 28 = 1 ∨ cmd.toNat / 2 ^ 28 = 4) ∧ cmd.toNat % 2 ^ 28 ≠ 0) ∨
    (cmd.toNat / 2 ^ 28 = 2 ∧ (cmd.toNat / 2 ^ 25 % 2 ^ 3 ≠ 0 ∨ cmd.toNat / 2 ^ 9 % 2 ^ 7 ≠ 0)) ∨
    (cmd.toNat / 2 ^ 28 = 3 ∧ cmd.toNat / 2 ^ 24 % 2 ^ 4 ≠ 0)) ∧
  (∀ cmd : Word, (∃ why, decode cmd = .illegal why) ↔ ∀ r ∈ opcodeTable, r.selects cmd = false) ∧
  (∀ (cmd : Word) (s : State),
    (s.state = .error → cmd ≠ 0x10000000#32 → performCommand cmd s = .next s) ∧
    (s.state ≠ .error → (∃ why, decode cmd = .illegal why) →
      performCommand cmd s = .next { s with state := .error, err := .illegalCommand }) ∧
    (∀ i, decode cmd = .ok i → (s.state ≠ .error ∨ cmd = 0x10000000#32) → performCommand cmd s = exec i s))

/-- NOP 0x00000000, CLEAR 0x10000000, SETDIM 16, 8 0x20080010, SETDIM 256, 256 0x21000100, PIXEL 0xFFFFFF 0x30FFFFFF, PIXEL
0x123456 0x30123456, ENCODE 0x40000000; 0x00000001, 0x3F000000, 0x50000000 and 0xFFFFFFFF are illegal. -/
def Obligations.SampleWordsDecodeAsTheSpecSpells : Prop :=
  decode 0x00000000#32 = .ok .nop ∧ decode 0x10000000#32 = .ok .clear ∧
  decode 0x20080010#32 = .ok (.setdim 16 8) ∧ decode 0x21000100#32 = .ok (.setdim 256 256) ∧
  decode 0x30FFFFFF#32 = .ok (.pixel 0xFFFFFF) ∧ decode 0x30123456#32 = .ok (.pixel 0x123456) ∧
  decode 0x40000000#32 = .ok .encode ∧
  decode 0x00000001#32 = .illegal .reservedBits ∧ decode 0x3F000000#32 = .illegal .reservedBits ∧
  decode 0x50000000#32 = .illegal .reservedOpcode ∧ decode 0xFFFFFFFF#32 = .illegal .reservedOpcode

/-- For w and h of at most 511 the line SETDIM w, h is one write to CMD of the word encode gives, for c of at most 0xFFFFFF the
line PIXEL c likewise, and NOP, CLEAR and ENCODE likewise; a SETDIM or PIXEL line with a number out of range stands for nothing.
-/
def Obligations.ScriptLinesSpellTheEncodings : Prop :=
  (∀ w h : Nat, w ≤ 511 → h ≤ 511 →
    lineTransactions (.setdim w h) =
      some [.write 0x0004#16 .four (encode (.setdim (BitVec.ofNat 9 w) (BitVec.ofNat 9 h)))]) ∧
  (∀ c : Nat, c ≤ 0xFFFFFF →
    lineTransactions (.pixel c) = some [.write 0x0004#16 .four (encode (.pixel (BitVec.ofNat 24 c)))]) ∧
  lineTransactions .nop = some [.write 0x0004#16 .four (encode .nop)] ∧
  lineTransactions .clear = some [.write 0x0004#16 .four (encode .clear)] ∧
  lineTransactions .encode = some [.write 0x0004#16 .four (encode .encode)] ∧
  (∀ w h : Nat, 511 < w ∨ 511 < h → lineTransactions (.setdim w h) = none) ∧
  (∀ c : Nat, 0xFFFFFF < c → lineTransactions (.pixel c) = none)

/-- For c of at most 0xFFFFFF, n of at least 1 and any lines after it, the bus cycles of PIXELS c, n are those of n lines PIXEL
c; with n = 0 the line is ill formed and stands for nothing. -/
def Obligations.PixelsLineIsThatManyPixelLines : Prop :=
  (∀ (c n : Nat) (ls : List HostLine), c ≤ 0xFFFFFF → 1 ≤ n →
    scriptCycles (.pixels c n :: ls) = scriptCycles (List.replicate n (.pixel c) ++ ls)) ∧
  (∀ (c : Nat) (ls : List HostLine), scriptCycles (.pixels c 0 :: ls) = none)

/-- When the next waiting cycle is outside reset and presents a 4-byte write whose effective address is CMD, and the written
word decodes to i, step is exec i at the state with that cycle consumed and no read data (the form of the waiting cycles and of
absent read data is the model's choice, log entries 2 and 3); presented by withFetchWord, the encoded word of any instruction is
run as the very next step. -/
def Obligations.StepRunsTheDecodedInstruction : Prop :=
  (∀ (s : State) (c : BusCycle) (rest : List BusCycle) (addr : Addr) (cmd : Word) (i : Instr),
    s.pending = c :: rest → c.rstN = true → c.transaction = some (.write addr .four cmd) →
    addr.toNat / 4 = 1 → decode cmd = .ok i →
    step s = exec i { s with pending := rest, rdata := none }) ∧
  (∀ (s : State) (i : Instr), decode (encode i) = .ok i →
    step (s.withFetchWord 32 (encode i).toNat) = exec i { s with rdata := none })

/-- step answers a next state in every state, and exec answers a next state for every instruction in every state: nothing
faults, traps, waits or is refused. -/
def Obligations.EveryStepAndCommandCompletes : Prop :=
  (∀ s : State, ∃ t, step s = .next t) ∧ (∀ (i : Instr) (s : State), ∃ t, exec i s = .next t)

/-- When the next waiting cycle has rst_n at 0, step answers a state with every element at its reset value and no IndexGrid cell
written, whatever the cycle presents, and the cycles after it still wait; a read it presents returns 0; and a transaction
presented in the following cycle, outside reset, is performed. R190 gives the values when reset ends; that they hold after
every cycle with rst_n at 0, and that the later cycles stay, is the model's inference (log entry 7), and that the IndexGrid's
unspecified values are unwritten cells is its choice (log entry 1). -/
def Obligations.ResetCycleGivesResetValues : Prop :=
  ∀ (s : State) (c : BusCycle) (rest : List BusCycle), s.pending = c :: rest → c.rstN = false →
    ∃ t, step s = .next t ∧ t.pending = rest ∧
      t.state = .idle ∧ t.err = .noError ∧ t.w = 0 ∧ t.h = 0 ∧ t.pixcount = 0 ∧ t.palN = 0 ∧
      (∀ i : PalIndex, t.palEntry i = 0) ∧ t.errX = 0 ∧ t.errY = 0 ∧ t.errClr = 0 ∧
      (∀ key, t.idx.read? key = none) ∧
      (∀ a z, c.transaction = some (.read a z) → t.rdata = some 0) ∧
      (∀ c' rest' tr, rest = c' :: rest' → c'.rstN = true → c'.transaction = some tr →
        ∃ r, step t = performTransaction tr { t with pending := rest', rdata := r })

/-- In State.reset STATE is IDLE, ERR is NONE, W, H, PIXCOUNT, PAL_N, the four palette colours, ERR_X, ERR_Y and ERR_CLR are 0,
no IndexGrid cell is written, and the ID register reads 0x47425445, as it does in every state. R43 gives the IndexGrid any value;
that its unspecified values are unwritten cells is the model's choice (log entry 1). -/
def Obligations.ResetStateHoldsTheResetTable : Prop :=
  State.reset.state.code.toNat = 0 ∧ State.reset.err.code.toNat = 0 ∧ State.reset.w.toNat = 0 ∧ State.reset.h.toNat = 0 ∧
  State.reset.pixcount.toNat = 0 ∧ State.reset.palN.toNat = 0 ∧ (∀ i : PalIndex, (State.reset.palEntry i).toNat = 0) ∧
  State.reset.errX.toNat = 0 ∧ State.reset.errY.toNat = 0 ∧ State.reset.errClr.toNat = 0 ∧
  (∀ key, State.reset.idx.read? key = none) ∧ (∀ s : State, s.readReg .id = 0x47425445#32)

/-- A cycle outside reset with sel at 0 changes nothing but that it is consumed, and a step with no cycle waiting changes
nothing. That such a cycle shows no read data is the model's choice (log entry 3). -/
def Obligations.NothingPresentedHoldsTheState : Prop :=
  (∀ (s : State) (c : BusCycle) (rest : List BusCycle), s.pending = c :: rest → c.rstN = true → c.sel = false →
    step s = .next { s with pending := rest, rdata := none }) ∧
  (∀ s : State, s.pending = [] → step s = .next { s with rdata := none })

/-- exec of NOP answers the same state, from every state; its word is 0x00000000; and a delivered word with OP 0 and any of bits
[27:0] set is no NOP: it raises ILLEGAL_COMMAND outside ERROR. -/
def Obligations.NopHasNoEffect : Prop :=
  (∀ s : State, exec .nop s = .next s) ∧ encode .nop = 0x00000000#32 ∧
  (∀ (cmd : Word) (s : State), cmd.toNat / 2 ^ 28 = 0 → cmd.toNat % 2 ^ 28 ≠ 0 →
    (s.state ≠ .error → performCommand cmd s = .next { s with state := .error, err := .illegalCommand }) ∧
    (s.state = .error → performCommand cmd s = .next s))

/-- exec of CLEAR answers, from every state, the state with STATE IDLE, ERR NONE, and W, H, PIXCOUNT, PAL_N, all palette colours
and the error information 0, everything else (the IndexGrid, the waiting cycles) unchanged; every window byte then reads 0x00
and every register but ID reads 0; from ERROR every other command changes nothing; its word is 0x10000000, and another word with
OP 1 is ignored in ERROR and raises ILLEGAL_COMMAND elsewhere. -/
def Obligations.ClearAbandonsTheJob : Prop :=
  (∀ s : State, ∃ t, exec .clear s = .next t ∧
    t = { s with
      state := .idle, err := .noError, w := 0, h := 0, pixcount := 0, palN := 0, palColor := t.palColor,
      errX := 0, errY := 0, errClr := 0 } ∧
    (∀ i : PalIndex, t.palEntry i = 0) ∧ (∀ y x, t.cell y x = s.cell y x) ∧ (∀ a, t.tileSetByte a = 0) ∧
    (∀ r : RegName, r ≠ .id → t.readReg r = 0)) ∧
  (∀ (i : Instr) (s : State), s.state = .error → i ≠ .clear → exec i s = .next s) ∧
  encode .clear = 0x10000000#32 ∧
  (∀ (cmd : Word) (s : State), cmd.toNat / 2 ^ 28 = 1 → cmd.toNat % 2 ^ 28 ≠ 0 →
    (s.state = .error → performCommand cmd s = .next s) ∧
    (s.state ≠ .error → performCommand cmd s = .next { s with state := .error, err := .illegalCommand }))

/-- For every state: in IDLE with w and h legal, exec of SETDIM answers the state with W = w, H = h, PIXCOUNT = 0 and STATE
LOADING and all else unchanged; in IDLE with either not legal, only STATE ERROR and ERR DIMENSION change; in LOADING, LOADED and
DONE, only STATE ERROR and ERR SEQUENCE, whatever the dimensions; in ERROR nothing changes. Its word is 0x20000000 with h
shifted left by 16 and w. Legal dimensions have at least 64 pixels. -/
def Obligations.SetdimOpensAJobOrReportsTheError : Prop :=
  (∀ (w h : Dim) (s : State),
    (s.state = .idle → legalDim w → legalDim h →
      exec (.setdim w h) s = .next { s with w := w, h := h, pixcount := 0, state := .loading }) ∧
    (s.state = .idle → ¬ (legalDim w ∧ legalDim h) →
      exec (.setdim w h) s = .next { s with state := .error, err := .dimension }) ∧
    (s.state = .loading ∨ s.state = .loaded ∨ s.state = .done →
      exec (.setdim w h) s = .next { s with state := .error, err := .sequence }) ∧
    (s.state = .error → exec (.setdim w h) s = .next s)) ∧
  (∀ w h : Dim, (encode (.setdim w h)).toNat = 0x20000000 + h.toNat * 2 ^ 16 + w.toNat) ∧
  (∀ v : Dim, dimOk v = true ↔ legalDim v) ∧
  (∀ w h : Dim, legalDim w → legalDim h → 64 ≤ w.toNat * h.toNat)

/-- For each of NOP, CLEAR, SETDIM and ENCODE, when exec answers t then every IndexGrid cell reads in t as before, and the read
data, the waiting cycles and the reset count are unchanged; NOP, SETDIM and ENCODE leave PAL_N, the palette colours and the
error information as they are; NOP and ENCODE leave W, H and PIXCOUNT as they are. -/
def Obligations.SetupAndEncodeLeaveEveryCell : Prop :=
  ∀ (i : Instr) (s t : State), exec i s = .next t →
    ((i = .nop ∨ i = .clear ∨ (∃ w h, i = .setdim w h) ∨ i = .encode) →
      (∀ y x, t.cell y x = s.cell y x) ∧ t.pending = s.pending ∧ t.rdata = s.rdata ∧ t.resetCount = s.resetCount) ∧
    ((i = .nop ∨ (∃ w h, i = .setdim w h) ∨ i = .encode) →
      t.palN = s.palN ∧ t.palColor = s.palColor ∧ t.errX = s.errX ∧ t.errY = s.errY ∧ t.errClr = s.errClr) ∧
    ((i = .nop ∨ i = .encode) → t.w = s.w ∧ t.h = s.h ∧ t.pixcount = s.pixcount)

/-- In every state that meets the invariant, the lookup of c answers i exactly when entry i is valid and holds c, bit for bit;
it misses exactly when no valid entry holds c; and at most one valid entry holds c. -/
def Obligations.LookupFindsTheUniqueEntry : Prop :=
  ∀ (s : State) (c : Color), s.Inv →
    (∀ i : PalIndex, s.lookup c = some i ↔ (i.toNat < s.palN.toNat ∧ s.palEntry i = c)) ∧
    (s.lookup c = none ↔ ∀ i : PalIndex, i.toNat < s.palN.toNat → s.palEntry i ≠ c) ∧
    (∀ i j : PalIndex, i.toNat < s.palN.toNat → j.toNat < s.palN.toNat →
      s.palEntry i = c → s.palEntry j = c → i = j)

/-- In LOADING, in a state that meets the invariant, if valid entry i holds c then exec of PIXEL c answers a state in which the
cell at (PIXCOUNT mod W, PIXCOUNT div W) holds i, every other cell reads as before, PIXCOUNT is one more, STATE is LOADED if
PIXCOUNT is now W times H and LOADING otherwise, and the palette and every other element are unchanged. -/
def Obligations.PixelOfAKnownColourReusesItsIndex : Prop :=
  ∀ (s : State) (c : Color) (i : PalIndex), s.Inv → s.state = .loading → i.toNat < s.palN.toNat → s.palEntry i = c →
    ∃ t, exec (.pixel c) s = .next t ∧
      t.cell (s.pixcount.toNat / s.w.toNat) (s.pixcount.toNat % s.w.toNat) = i ∧
      (∀ y x, y < 256 → x < 256 → ¬ (y = s.pixcount.toNat / s.w.toNat ∧ x = s.pixcount.toNat % s.w.toNat) →
        t.cell y x = s.cell y x) ∧
      t.pixcount.toNat = s.pixcount.toNat + 1 ∧
      t.state = (if s.pixcount.toNat + 1 = s.w.toNat * s.h.toNat then .loaded else .loading) ∧
      t.palN = s.palN ∧ t.palColor = s.palColor ∧ t.err = s.err ∧ t.w = s.w ∧ t.h = s.h ∧
      t.errX = s.errX ∧ t.errY = s.errY ∧ t.errClr = s.errClr ∧
      t.resetCount = s.resetCount ∧ t.pending = s.pending ∧ t.rdata = s.rdata

/-- In LOADING, in a state that meets the invariant, if no valid entry holds c and PAL_N is below 4, then exec of PIXEL c
answers a state in which entry PAL_N is valid and holds c, PAL_N is one more, every other entry is unchanged, the cell at the
cursor holds the old PAL_N, every other cell reads as before, PIXCOUNT is one more, STATE is LOADED on the last pixel and
LOADING otherwise, and every other element is unchanged. -/
def Obligations.PixelOfANewColourTakesTheNextIndex : Prop :=
  ∀ (s : State) (c : Color), s.Inv → s.state = .loading → s.palN.toNat < 4 →
    (∀ i : PalIndex, i.toNat < s.palN.toNat → s.palEntry i ≠ c) →
    ∃ t, exec (.pixel c) s = .next t ∧
      t.palN.toNat = s.palN.toNat + 1 ∧
      (∀ i : PalIndex, t.palEntry i = if i.toNat = s.palN.toNat then c else s.palEntry i) ∧
      (t.cell (s.pixcount.toNat / s.w.toNat) (s.pixcount.toNat % s.w.toNat)).toNat = s.palN.toNat ∧
      (∀ y x, y < 256 → x < 256 → ¬ (y = s.pixcount.toNat / s.w.toNat ∧ x = s.pixcount.toNat % s.w.toNat) →
        t.cell y x = s.cell y x) ∧
      t.pixcount.toNat = s.pixcount.toNat + 1 ∧
      t.state = (if s.pixcount.toNat + 1 = s.w.toNat * s.h.toNat then .loaded else .loading) ∧
      t.err = s.err ∧ t.w = s.w ∧ t.h = s.h ∧ t.errX = s.errX ∧ t.errY = s.errY ∧ t.errClr = s.errClr ∧
      t.resetCount = s.resetCount ∧ t.pending = s.pending ∧ t.rdata = s.rdata

/-- In LOADING, in a state that meets the invariant, if no valid entry holds c and PAL_N is 4, then exec of PIXEL c answers a
state with STATE ERROR, ERR TOO_MANY_COLORS, ERR_X = PIXCOUNT mod W, ERR_Y = PIXCOUNT div W and ERR_CLR = c; the failing pixel
writes no cell, adds no entry and does not advance PIXCOUNT, and every other element is unchanged. -/
def Obligations.FifthColourRecordsPixelAndColour : Prop :=
  ∀ (s : State) (c : Color), s.Inv → s.state = .loading → s.palN.toNat = 4 →
    (∀ i : PalIndex, s.palEntry i ≠ c) →
    ∃ t, exec (.pixel c) s = .next t ∧
      t.errX.toNat = s.pixcount.toNat % s.w.toNat ∧ t.errY.toNat = s.pixcount.toNat / s.w.toNat ∧
      t = { s with state := .error, err := .tooManyColors, errX := t.errX, errY := t.errY, errClr := c }

/-- In IDLE, LOADED and DONE exec of PIXEL c answers the state with only STATE ERROR and ERR SEQUENCE changed; in ERROR it
answers the state unchanged. -/
def Obligations.PixelOutsideLoadingRaisesSequence : Prop :=
  ∀ (s : State) (c : Color),
    (s.state = .idle ∨ s.state = .loaded ∨ s.state = .done →
      exec (.pixel c) s = .next { s with state := .error, err := .sequence }) ∧
    (s.state = .error → exec (.pixel c) s = .next s)

/-- In LOADING with PIXCOUNT 0, in a state that meets the invariant, exec of PIXEL c answers a state in which entry 0 holds c,
PAL_N is 1, cell (0, 0) holds 0 and PIXCOUNT is 1, whatever the colour c is. -/
def Obligations.FirstPixelTakesIndexZero : Prop :=
  ∀ (s : State) (c : Color), s.Inv → s.state = .loading → s.pixcount = 0 →
    ∃ t, exec (.pixel c) s = .next t ∧ t.palEntry 0 = c ∧ t.palN = 1 ∧ t.cell 0 0 = 0 ∧ t.pixcount = 1

/-- In LOADING, in a state that meets the invariant, the cursor column is PIXCOUNT mod W and below W, its row is PIXCOUNT div W
and below H, and both are 0 when PIXCOUNT is 0; if PIXEL is accepted and LOADING goes on, the cursor moves one column right, or
from the last column to column 0 of the next row; and after a PIXEL at (W-1, H-1) STATE is not LOADING. -/
def Obligations.CursorMovesInRowMajorOrder : Prop :=
  ∀ (s : State), s.Inv → s.state = .loading →
    s.curX = s.pixcount.toNat % s.w.toNat ∧ s.curY = s.pixcount.toNat / s.w.toNat ∧
    s.curX < s.w.toNat ∧ s.curY < s.h.toNat ∧ (s.pixcount = 0 → s.curX = 0 ∧ s.curY = 0) ∧
    (∀ (c : Color) (t : State), exec (.pixel c) s = .next t → t.state = .loading →
      (s.curX + 1 < s.w.toNat → t.curX = s.curX + 1 ∧ t.curY = s.curY) ∧
      (s.curX + 1 = s.w.toNat → t.curX = 0 ∧ t.curY = s.curY + 1)) ∧
    (∀ (c : Color) (t : State), exec (.pixel c) s = .next t → s.curX + 1 = s.w.toNat → s.curY + 1 = s.h.toNat →
      t.state ≠ .loading)

/-- In a state that meets the invariant, if entry i is valid and a step answers t, then entry i is valid in t with the same
colour, unless the step's cycle is reset or delivers CLEAR. -/
def Obligations.ValidPaletteEntriesStayUntilClearOrReset : Prop :=
  ∀ (s t : State) (i : PalIndex), s.Inv → step s = .next t → i.toNat < s.palN.toNat →
    (i.toNat < t.palN.toNat ∧ t.palEntry i = s.palEntry i) ∨
    (∃ c rest, s.pending = c :: rest ∧ (c.rstN = false ∨ commandOf c = some 0x10000000#32))

/-- If a step answers t and a cell reads differently in t, then the cycle it took is reset, or STATE was LOADING, the cycle
delivers a PIXEL word, and the cell is the one at the cursor. -/
def Obligations.OnlyThePixelAtTheCursorWritesItsCell : Prop :=
  ∀ (s t : State) (y x : Nat), step s = .next t → t.cell y x ≠ s.cell y x →
    ∃ c rest, s.pending = c :: rest ∧
      (c.rstN = false ∨
        (s.state = .loading ∧ (∃ k : Color, commandOf c = some (encode (.pixel k))) ∧
          y % 256 = s.curY % 256 ∧ x % 256 = s.curX % 256))

/-- In LOADING with PIXCOUNT 0, in a state that meets the invariant, after the PIXEL words of any list of at most W times H
colours of which at most four are distinct: PAL_N is the number of distinct colours, entry k is the k-th distinct colour in
order of first encounter, PIXCOUNT is the length of the list, STATE is LOADED if the image is complete and LOADING otherwise,
and the palette entry named by the cell of pixel n, at (n mod W, n div W), is colour n of the list. -/
def Obligations.DeliveredColoursGiveTheFirstSeenPalette : Prop :=
  ∀ (s : State) (cs : List Color), s.Inv → s.state = .loading → s.pixcount = 0 →
    cs.length ≤ s.w.toNat * s.h.toNat → (firstSeen cs).length ≤ 4 →
    let t := afterCommands (cs.map fun c => encode (.pixel c)) s
    t.palN.toNat = (firstSeen cs).length ∧
    (∀ (k : PalIndex) (c : Color), (firstSeen cs)[k.toNat]? = some c → t.palEntry k = c) ∧
    t.pixcount.toNat = cs.length ∧
    t.state = (if cs.length = s.w.toNat * s.h.toNat then .loaded else .loading) ∧
    (∀ (n : Nat) (c : Color), cs[n]? = some c → t.palEntry (t.cell (n / s.w.toNat) (n % s.w.toNat)) = c)

/-- For every state: in LOADED exec of ENCODE answers the state with only STATE changed, to DONE; in DONE it answers the state
unchanged; in IDLE and LOADING only STATE ERROR and ERR SEQUENCE change; in ERROR nothing changes. Its word is 0x40000000. For
an 8 by 8 image in DONE window bytes 16 and on read 0x00. -/
def Obligations.EncodeMakesTheTileSetReadable : Prop :=
  (∀ s : State,
    (s.state = .loaded → exec .encode s = .next { s with state := .done }) ∧
    (s.state = .done → exec .encode s = .next s) ∧
    (s.state = .idle ∨ s.state = .loading → exec .encode s = .next { s with state := .error, err := .sequence }) ∧
    (s.state = .error → exec .encode s = .next s)) ∧
  encode .encode = 0x40000000#32 ∧
  (∀ (s : State) (a : Nat), s.w = 8 → s.h = 8 → 16 ≤ a → s.tileSetByte a = 0)

/-- Outside DONE, and in DONE at offsets of 16 times NT and on, every window byte is 0x00. In DONE, for tile t below NT, row r
and pixel j below 8, bit 7 - j of byte 16t + 2r is bit 0, and bit 7 - j of byte 16t + 2r + 1 is bit 1, of the cell in row 8 (t
div TC) + r and column 8 (t mod TC) + j, where TC = W div 8 and NT = TC times (H div 8). -/
def Obligations.TileSetBytesPackTheTilesInOrder : Prop :=
  ∀ s : State,
    (∀ a, s.state ≠ .done → s.tileSetByte a = 0) ∧
    (∀ a, 16 * ((s.w.toNat / 8) * (s.h.toNat / 8)) ≤ a → s.tileSetByte a = 0) ∧
    (∀ t r j, s.state = .done → t < (s.w.toNat / 8) * (s.h.toNat / 8) → r < 8 → j < 8 →
      (s.tileSetByte (16 * t + 2 * r)).getLsbD (7 - j) =
        (s.cell (8 * (t / (s.w.toNat / 8)) + r) (8 * (t % (s.w.toNat / 8)) + j)).getLsbD 0 ∧
      (s.tileSetByte (16 * t + 2 * r + 1)).getLsbD (7 - j) =
        (s.cell (8 * (t / (s.w.toNat / 8)) + r) (8 * (t % (s.w.toNat / 8)) + j)).getLsbD 1)

/-- In DONE, in a state that meets the invariant: bytes from 16 times (W/8) times (H/8) on are 0x00; for every pixel (x, y) of
the image, with t = (y div 8) (W/8) + (x div 8), r = y mod 8 and j = x mod 8, the cell is twice bit 7 - j of byte 16t + 2r + 1
plus bit 7 - j of byte 16t + 2r, and those bytes lie inside the TileSet; and a tile whose 64 cells are all 0 has sixteen bytes
0x00. -/
def Obligations.PackingIsInvertible : Prop :=
  ∀ s : State, s.Inv → s.state = .done →
    (∀ a, 16 * ((s.w.toNat / 8) * (s.h.toNat / 8)) ≤ a → s.tileSetByte a = 0) ∧
    (∀ x y, x < s.w.toNat → y < s.h.toNat →
      let t := (y / 8) * (s.w.toNat / 8) + x / 8
      16 * t + 2 * (y % 8) + 1 < 16 * ((s.w.toNat / 8) * (s.h.toNat / 8)) ∧
      (s.cell y x).toNat =
        2 * ((s.tileSetByte (16 * t + 2 * (y % 8) + 1)).getLsbD (7 - x % 8)).toNat +
          ((s.tileSetByte (16 * t + 2 * (y % 8))).getLsbD (7 - x % 8)).toNat) ∧
    (∀ t k, t < (s.w.toNat / 8) * (s.h.toNat / 8) → k < 16 →
      (∀ r j, r < 8 → j < 8 → s.cell (8 * (t / (s.w.toNat / 8)) + r) (8 * (t % (s.w.toNat / 8)) + j) = 0) →
      s.tileSetByte (16 * t + k) = 0)

/-- If STATE is DONE and a step answers t with STATE DONE, then every window byte, every cell, W, H, PAL_N and the palette
colours are the same in t; and in DONE a PIXEL or SETDIM command leaves for ERROR with SEQUENCE, the IndexGrid, W, H and the
palette unchanged. -/
def Obligations.TileSetIsFrozenWhileDone : Prop :=
  (∀ s t : State, s.state = .done → step s = .next t → t.state = .done →
    (∀ a, t.tileSetByte a = s.tileSetByte a) ∧ (∀ y x, t.cell y x = s.cell y x) ∧
    t.w = s.w ∧ t.h = s.h ∧ t.palN = s.palN ∧ t.palColor = s.palColor) ∧
  (∀ (s : State) (i : Instr), s.state = .done → ((∃ c, i = .pixel c) ∨ ∃ w h, i = .setdim w h) →
    exec i s = .next { s with state := .error, err := .sequence })

/-- In every state that meets the invariant: ID reads 0x47425445 and CMD 0; STATUS is the STATE number plus 16 times the ERR
number plus 256 times PAL_N; DIM is W plus 2^16 H; PIXCOUNT is the count; ERR_POS is ERR_X plus 2^16 ERR_Y; ERR_COLOR is
ERR_CLR; GEOM is W/8 plus 2^8 (H/8) plus 2^16 (W/8)(H/8); PALi is 2^31 plus the colour of entry i where i is below PAL_N, else
0. Every unnamed bit is 0. -/
def Obligations.RegisterFieldsHoldTheirElements : Prop :=
  ∀ s : State, s.Inv →
    s.readReg .id = 0x47425445#32 ∧ s.readReg .cmd = 0#32 ∧
    (s.readReg .status).toNat =
      (match s.state with | .idle => 0 | .loading => 1 | .loaded => 2 | .done => 3 | .error => 4) +
      2 ^ 4 * (match s.err with
        | .noError => 0 | .dimension => 1 | .tooManyColors => 2 | .illegalCommand => 3 | .sequence => 4) +
      2 ^ 8 * s.palN.toNat ∧
    (s.readReg .dim).toNat = s.w.toNat + 2 ^ 16 * s.h.toNat ∧
    (s.readReg .pixcount).toNat = s.pixcount.toNat ∧
    (s.readReg .errPos).toNat = s.errX.toNat + 2 ^ 16 * s.errY.toNat ∧
    (s.readReg .errColor).toNat = s.errClr.toNat ∧
    (s.readReg .geom).toNat =
      s.w.toNat / 8 + 2 ^ 8 * (s.h.toNat / 8) + 2 ^ 16 * ((s.w.toNat / 8) * (s.h.toNat / 8)) ∧
    (∀ i : PalIndex, (s.readReg (.pal i)).toNat =
      if i.toNat < s.palN.toNat then 2 ^ 31 + (s.palEntry i).toNat else 0)

/-- For a read of n = 1, 2 or 4 bytes whose address aligned down to n is ea below 0x30: there is exactly one register at offset
ea - ea mod 4, and the read answers the same state with read data (register value div 2^(8j)) mod 2^(8n), j = ea mod 4. The
registers stand at 0x000 to 0x01C and 0x020 + 4i. -/
def Obligations.RegisterReadsAreLittleEndian : Prop :=
  (∀ (s : State) (addr : Addr) (z : AccessSize), z ≠ .reserved → addr.toNat < 0x30 →
    let ea := addr.toNat - addr.toNat % z.bytes
    ∃ r : RegName, r.offset.toNat = ea - ea % 4 ∧ (∀ r' : RegName, r'.offset.toNat = ea - ea % 4 → r' = r) ∧
      ∃ v : Word, performTransaction (.read addr z) s = .next { s with rdata := some v } ∧
        v.toNat = (s.readReg r).toNat / 2 ^ (8 * (ea % 4)) % 2 ^ (8 * z.bytes)) ∧
  RegName.id.offset = 0x000#16 ∧ RegName.cmd.offset = 0x004#16 ∧ RegName.status.offset = 0x008#16 ∧
  RegName.dim.offset = 0x00C#16 ∧ RegName.pixcount.offset = 0x010#16 ∧ RegName.errPos.offset = 0x014#16 ∧
  RegName.errColor.offset = 0x018#16 ∧ RegName.geom.offset = 0x01C#16 ∧
  (∀ i : PalIndex, (RegName.pal i).offset.toNat = 0x020 + 4 * i.toNat)

/-- For an address of the window and n = 1, 2 or 4 bytes, with a the address aligned down to n less 0x4000: the read answers the
same state with read data whose byte m is TileSet byte a + m for m below n and 0 above; a write of any size changes nothing. -/
def Obligations.WindowReadsAreLittleEndian : Prop :=
  ∀ (s : State) (addr : Addr) (z : AccessSize), 0x4000 ≤ addr.toNat → addr.toNat ≤ 0x7FFF →
    (z ≠ .reserved →
      ∃ v : Word, performTransaction (.read addr z) s = .next { s with rdata := some v } ∧
        v.toNat < 256 ^ z.bytes ∧
        ∀ m, m < z.bytes →
          v.toNat / 256 ^ m % 256 = (s.tileSetByte (addr.toNat - addr.toNat % z.bytes - 0x4000 + m)).toNat) ∧
    (∀ d : Word, performTransaction (.write addr z d) s = .next s)

/-- For n = 1, 2 or 4 the effective address is addr - addr mod n; a read or write at addr does exactly what the same access at
the effective address does; and every transaction answers a next state. -/
def Obligations.AccessesAreAlignedDown : Prop :=
  ∀ (s : State) (addr : Addr) (z : AccessSize) (d : Word), z ≠ .reserved →
    (effectiveAddress addr z).toNat = addr.toNat - addr.toNat % z.bytes ∧
    performTransaction (.read addr z) s = performTransaction (.read (effectiveAddress addr z) z) s ∧
    performTransaction (.write addr z d) s = performTransaction (.write (effectiveAddress addr z) z d) s ∧
    (∃ t, performTransaction (.read addr z) s = .next t) ∧ (∃ t, performTransaction (.write addr z d) s = .next t)

/-- A write of 4 bytes to an address from 0x0004 to 0x0007 performs its data as a command word; a write of another size, or to
any other address of the register region, changes no state. -/
def Obligations.OnlyAFourByteWriteToCmdActs : Prop :=
  ∀ (s : State) (addr : Addr) (z : AccessSize) (d : Word),
    (z = .four → addr.toNat / 4 = 1 → performTransaction (.write addr z d) s = performCommand d s) ∧
    (¬ (z = .four ∧ addr.toNat / 4 = 1) → performTransaction (.write addr z d) s = .next s)

/-- At an address from 0x0030 to 0x3FFF or from 0x8000 on, a read of any size returns 0 and changes nothing else, and a write
changes nothing; size pins of 3 are the reserved size, with which the same holds at every address. -/
def Obligations.ReservedAccessesReadZeroAndWriteNothing : Prop :=
  (∀ (s : State) (addr : Addr) (z : AccessSize) (d : Word),
    (0x30 ≤ addr.toNat ∧ addr.toNat ≤ 0x3FFF) ∨ 0x8000 ≤ addr.toNat ∨ z = .reserved →
    performTransaction (.read addr z) s = .next { s with rdata := some 0 } ∧
    performTransaction (.write addr z d) s = .next s) ∧
  (∀ code : BitVec 2, AccessSize.ofCode code = .reserved ↔ code.toNat = 3)

/-- When the next waiting cycle is outside reset and presents a read of an address and size, the step consumes it, sets the read
data to what the bus reads there and changes nothing else; and where the cycle after it is outside reset and presents a read of
the same address and size, the second step shows the same data and again changes nothing else, whatever the other pins of the
two cycles are. (The form of the waiting cycles is the model's choice, log entry 2.) -/
def Obligations.ReadsHaveNoSideEffect : Prop :=
  ∀ (s : State) (c : BusCycle) (rest : List BusCycle) (addr : Addr) (z : AccessSize),
    s.pending = c :: rest → c.rstN = true → c.transaction = some (.read addr z) →
    step s = .next { s with pending := rest, rdata := some (s.busRead addr z) } ∧
    (∀ (c₂ : BusCycle) (rest₂ : List BusCycle),
      rest = c₂ :: rest₂ → c₂.rstN = true → c₂.transaction = some (.read addr z) →
      step { s with pending := rest, rdata := some (s.busRead addr z) } =
        .next { s with pending := rest₂, rdata := some (s.busRead addr z) })

/-- If a step answers t with another W or H, then its cycle is reset, or delivers CLEAR, or STATE was IDLE and the cycle
delivers SETDIM w, h with both legal and t holds w and h. -/
def Obligations.DimChangesOnlyBySetdimClearOrReset : Prop :=
  ∀ s t : State, step s = .next t → (t.w ≠ s.w ∨ t.h ≠ s.h) →
    ∃ c rest, s.pending = c :: rest ∧
      (c.rstN = false ∨ commandOf c = some 0x10000000#32 ∨
        (s.state = .idle ∧ legalDim t.w ∧ legalDim t.h ∧ commandOf c = some (encode (.setdim t.w t.h))))

/-- If a delivered word takes a state whose STATE is not ERROR to one whose STATE is ERROR, the new state is the old one with
STATE ERROR and ERR DIMENSION, SEQUENCE or ILLEGAL_COMMAND, or with ERR TOO_MANY_COLORS, ERR_X and ERR_Y the cursor position and
ERR_CLR the colour of the word, every other element as before: so DIM, GEOM, PIXCOUNT and PAL0 to PAL3 read as before. -/
def Obligations.ErrorEntryIsPrecise : Prop :=
  ∀ (cmd : Word) (s t : State), performCommand cmd s = .next t → s.state ≠ .error → t.state = .error →
    (t = { s with state := .error, err := .dimension } ∨ t = { s with state := .error, err := .sequence } ∨
      t = { s with state := .error, err := .illegalCommand } ∨
      ∃ c : Color, cmd = encode (.pixel c) ∧
        t = { s with
          state := .error, err := .tooManyColors, errX := BitVec.ofNat 8 (s.pixcount.toNat % s.w.toNat),
          errY := BitVec.ofNat 8 (s.pixcount.toNat / s.w.toNat), errClr := c }) ∧
    t.readReg .dim = s.readReg .dim ∧ t.readReg .geom = s.readReg .geom ∧ t.readReg .pixcount = s.readReg .pixcount ∧
    (∀ i : PalIndex, t.readReg (.pal i) = s.readReg (.pal i))

/-- For every word and state: in ERROR a word other than CLEAR changes nothing; else an illegal word gives ILLEGAL_COMMAND; else
a command not legal in STATE (SETDIM outside IDLE, PIXEL outside LOADING, ENCODE outside LOADED and DONE) gives SEQUENCE; else
SETDIM with a dimension that is not legal gives DIMENSION, and PIXEL of a colour held by no valid entry with PAL_N at 4 gives
TOO_MANY_COLORS. So SETDIM 10, 8 in LOADING gives SEQUENCE and 0x3F000000 in IDLE gives ILLEGAL_COMMAND. -/
def Obligations.FirstErrorInThePriorityOrderIsReported : Prop :=
  (∀ (cmd : Word) (s : State),
    (s.state = .error → cmd ≠ 0x10000000#32 → performCommand cmd s = .next s) ∧
    (s.state ≠ .error → (∃ why, decode cmd = .illegal why) →
      performCommand cmd s = .next { s with state := .error, err := .illegalCommand }) ∧
    (∀ i, s.state ≠ .error → decode cmd = .ok i →
      ((s.state ≠ .idle ∧ ∃ w h, i = .setdim w h) ∨ (s.state ≠ .loading ∧ ∃ c, i = .pixel c) ∨
        (s.state ≠ .loaded ∧ s.state ≠ .done ∧ i = .encode)) →
      performCommand cmd s = .next { s with state := .error, err := .sequence }) ∧
    (∀ w h, decode cmd = .ok (.setdim w h) → s.state = .idle → ¬ (legalDim w ∧ legalDim h) →
      performCommand cmd s = .next { s with state := .error, err := .dimension }) ∧
    (∀ c, decode cmd = .ok (.pixel c) → s.state = .loading → s.palN.toNat = 4 → (∀ i : PalIndex, s.palEntry i ≠ c) →
      ∃ t, performCommand cmd s = .next t ∧ t.state = .error ∧ t.err = .tooManyColors)) ∧
  (∀ s : State, s.state = .loading →
    performCommand (encode (.setdim 10 8)) s = .next { s with state := .error, err := .sequence }) ∧
  (∀ s : State, s.state = .idle →
    performCommand 0x3F000000#32 s = .next { s with state := .error, err := .illegalCommand })

/-- If STATE is ERROR and the next waiting cycle is outside reset and does not deliver exactly 0x10000000, the step answers the
same state with that cycle consumed and only the read data set, to what the read returns where it is a read; and in ERROR every
read of the window returns 0. -/
def Obligations.ErrorIgnoresEverythingButClear : Prop :=
  (∀ (s : State) (c : BusCycle) (rest : List BusCycle), s.state = .error → s.pending = c :: rest → c.rstN = true →
    commandOf c ≠ some 0x10000000#32 →
    ∃ r, step s = .next { s with pending := rest, rdata := r } ∧
      ∀ addr z, c.transaction = some (.read addr z) → r = some (s.busRead addr z)) ∧
  (∀ (s : State) (addr : Addr) (z : AccessSize), s.state = .error → 0x4000 ≤ addr.toNat → addr.toNat ≤ 0x7FFF →
    s.busRead addr z = 0)

/-- From a state whose STATE is ERROR: if a step answers a state whose STATE is not ERROR, its cycle is reset or delivers
0x10000000; and each of those two does leave, to IDLE with ERR NONE and ERR_X, ERR_Y and ERR_CLR 0. -/
def Obligations.OnlyClearAndResetLeaveError : Prop :=
  (∀ s t : State, s.state = .error → step s = .next t → t.state ≠ .error →
    ∃ c rest, s.pending = c :: rest ∧ (c.rstN = false ∨ commandOf c = some 0x10000000#32)) ∧
  (∀ (s : State) (c : BusCycle) (rest : List BusCycle), s.state = .error → s.pending = c :: rest →
    (c.rstN = false ∨ commandOf c = some 0x10000000#32) →
    ∃ t, step s = .next t ∧ t.state = .idle ∧ t.err = .noError ∧ t.errX = 0 ∧ t.errY = 0 ∧ t.errClr = 0)

/-- In every state that meets the invariant: from ERROR every command but CLEAR leaves the state unchanged; else exec of i
answers a state whose STATE and ERR are one of the pairs the table gives for STATE and the command, CLEAR giving IDLE; and an
illegal word gives ERROR with ILLEGAL_COMMAND, or no change in ERROR. -/
def Obligations.StateMovesOnlyAsTheTableAllows : Prop :=
  (∀ (i : Instr) (s t : State), s.Inv → exec i s = .next t →
    (s.state = .error → i ≠ .clear → t = s) ∧
    (s.state ≠ .error ∨ i = .clear → (t.state, t.err) ∈ allowedAfter s.state (mnemonicOf i))) ∧
  (∀ (cmd : Word) (s t : State) (why : Illegal), decode cmd = .illegal why → performCommand cmd s = .next t →
    (s.state = .error → t = s) ∧ (s.state ≠ .error → t.state = .error ∧ t.err = .illegalCommand))

/-- State.reset meets every clause of the invariant. -/
def Obligations.InvariantHoldsAtReset : Prop :=
  State.reset.Inv

/-- For every state that meets the invariant (canonical IndexGrid memory, at most four pairwise distinct colours, PIXCOUNT
against W times H in each STATE, legal dimensions, ERR zero exactly outside ERROR, error information zero but for
TOO_MANY_COLORS, the cell of every received pixel written with a valid index) and every bus cycle that waits, if step answers t
then t meets the invariant. -/
def Obligations.EveryStepKeepsTheInvariant : Prop :=
  ∀ s t : State, s.Inv → step s = .next t → t.Inv

/-- If two states meet the invariant, are alike (equal in every element but the IndexGrid, and equal in the cells of the pixels
received in an open job) and have the same cycles waiting, a step from each gives alike states with the same cycles waiting,
which show the same read data; every read of alike states returns the same; and in DONE every cell of the image was written in
this job. So whatever the IndexGrid held after reset is never observable. -/
def Obligations.UnspecifiedCellsAreNeverSeen : Prop :=
  (∀ s s' t t' : State, s.Inv → s'.Inv → s.Alike s' → s.pending = s'.pending →
    step s = .next t → step s' = .next t' → t.Alike t' ∧ t.pending = t'.pending ∧ t.rdata = t'.rdata) ∧
  (∀ (s s' : State) (addr : Addr) (z : AccessSize), s.Inv → s'.Inv → s.Alike s' → s.busRead addr z = s'.busRead addr z) ∧
  (∀ (s : State) (y x : Nat), s.Inv → s.state = .done → y < s.h.toNat → x < s.w.toNat →
    ∃ v, s.idx.read? (cellKey y x) = some v)

/-- For every state that meets the invariant, every list of bus cycles and every number of steps, the read data of each step
from the state CLEAR gives equals that of each step from the state after reset, whatever unspecified values the IndexGrid holds
in either. -/
def Obligations.ClearCannotBeToldFromReset : Prop :=
  ∀ (s t : State) (cycles : List BusCycle) (resets n : Nat), s.Inv → exec .clear s = .next t →
    readTrace n { t with pending := cycles } =
      readTrace n { State.reset with pending := cycles, resetCount := resets }

/-- For every two states that meet the invariant and every list of command words: after CLEAR and those words, the two states
have equal registers and palette, equal TileSet bytes, and in LOADED equal cells for every pixel of the image. -/
def Obligations.SameCommandsAfterClearGiveTheSameResult : Prop :=
  ∀ (s s' : State) (cmds : List Word), s.Inv → s'.Inv →
    let t := afterCommands (encode .clear :: cmds) s
    let t' := afterCommands (encode .clear :: cmds) s'
    (∀ r : RegName, t.readReg r = t'.readReg r) ∧ t.palN = t'.palN ∧ t.palColor = t'.palColor ∧
    (∀ a, t.tileSetByte a = t'.tileSetByte a) ∧
    (t.state = .loaded → ∀ y x, y < t.h.toNat → x < t.w.toNat → t.cell y x = t'.cell y x)
end

