-- ==== Sys2Proof/Laws/State.lean ====
section
/-! SUPPORT. One lemma per field of State for each shared update, so that no proof unfolds a record update. -/

namespace Sys2Proof.Machine

/-! ### setCell -/

@[simp] theorem setCell_state (s : State) (y x : Nat) (v : PalIndex) : (s.setCell y x v).state = s.state := rfl
@[simp] theorem setCell_err (s : State) (y x : Nat) (v : PalIndex) : (s.setCell y x v).err = s.err := rfl
@[simp] theorem setCell_w (s : State) (y x : Nat) (v : PalIndex) : (s.setCell y x v).w = s.w := rfl
@[simp] theorem setCell_h (s : State) (y x : Nat) (v : PalIndex) : (s.setCell y x v).h = s.h := rfl
@[simp] theorem setCell_pixcount (s : State) (y x : Nat) (v : PalIndex) : (s.setCell y x v).pixcount = s.pixcount := rfl
@[simp] theorem setCell_palN (s : State) (y x : Nat) (v : PalIndex) : (s.setCell y x v).palN = s.palN := rfl
@[simp] theorem setCell_palColor (s : State) (y x : Nat) (v : PalIndex) : (s.setCell y x v).palColor = s.palColor := rfl
@[simp] theorem setCell_errX (s : State) (y x : Nat) (v : PalIndex) : (s.setCell y x v).errX = s.errX := rfl
@[simp] theorem setCell_errY (s : State) (y x : Nat) (v : PalIndex) : (s.setCell y x v).errY = s.errY := rfl
@[simp] theorem setCell_errClr (s : State) (y x : Nat) (v : PalIndex) : (s.setCell y x v).errClr = s.errClr := rfl
@[simp] theorem setCell_idx (s : State) (y x : Nat) (v : PalIndex) : (s.setCell y x v).idx = s.idx.write (cellKey y x) v := rfl
@[simp] theorem setCell_resetCount (s : State) (y x : Nat) (v : PalIndex) : (s.setCell y x v).resetCount = s.resetCount := rfl
@[simp] theorem setCell_pending (s : State) (y x : Nat) (v : PalIndex) : (s.setCell y x v).pending = s.pending := rfl
@[simp] theorem setCell_rdata (s : State) (y x : Nat) (v : PalIndex) : (s.setCell y x v).rdata = s.rdata := rfl

/-! ### addColor -/

@[simp] theorem addColor_state (s : State) (c : Color) : (s.addColor c).state = s.state := rfl
@[simp] theorem addColor_err (s : State) (c : Color) : (s.addColor c).err = s.err := rfl
@[simp] theorem addColor_w (s : State) (c : Color) : (s.addColor c).w = s.w := rfl
@[simp] theorem addColor_h (s : State) (c : Color) : (s.addColor c).h = s.h := rfl
@[simp] theorem addColor_pixcount (s : State) (c : Color) : (s.addColor c).pixcount = s.pixcount := rfl
@[simp] theorem addColor_palN (s : State) (c : Color) : (s.addColor c).palN = s.palN + 1 := rfl
@[simp] theorem addColor_palColor (s : State) (c : Color) : (s.addColor c).palColor = s.palColor.set s.nextIndex.toNat c s.nextIndex.isLt := rfl
@[simp] theorem addColor_errX (s : State) (c : Color) : (s.addColor c).errX = s.errX := rfl
@[simp] theorem addColor_errY (s : State) (c : Color) : (s.addColor c).errY = s.errY := rfl
@[simp] theorem addColor_errClr (s : State) (c : Color) : (s.addColor c).errClr = s.errClr := rfl
@[simp] theorem addColor_idx (s : State) (c : Color) : (s.addColor c).idx = s.idx := rfl
@[simp] theorem addColor_resetCount (s : State) (c : Color) : (s.addColor c).resetCount = s.resetCount := rfl
@[simp] theorem addColor_pending (s : State) (c : Color) : (s.addColor c).pending = s.pending := rfl
@[simp] theorem addColor_rdata (s : State) (c : Color) : (s.addColor c).rdata = s.rdata := rfl

/-! ### countPixel -/

@[simp] theorem countPixel_state (s : State) : (s.countPixel).state = if (s.pixcount + 1).toNat = s.npix then .loaded else s.state := rfl
@[simp] theorem countPixel_err (s : State) : (s.countPixel).err = s.err := rfl
@[simp] theorem countPixel_w (s : State) : (s.countPixel).w = s.w := rfl
@[simp] theorem countPixel_h (s : State) : (s.countPixel).h = s.h := rfl
@[simp] theorem countPixel_pixcount (s : State) : (s.countPixel).pixcount = s.pixcount + 1 := rfl
@[simp] theorem countPixel_palN (s : State) : (s.countPixel).palN = s.palN := rfl
@[simp] theorem countPixel_palColor (s : State) : (s.countPixel).palColor = s.palColor := rfl
@[simp] theorem countPixel_errX (s : State) : (s.countPixel).errX = s.errX := rfl
@[simp] theorem countPixel_errY (s : State) : (s.countPixel).errY = s.errY := rfl
@[simp] theorem countPixel_errClr (s : State) : (s.countPixel).errClr = s.errClr := rfl
@[simp] theorem countPixel_idx (s : State) : (s.countPixel).idx = s.idx := rfl
@[simp] theorem countPixel_resetCount (s : State) : (s.countPixel).resetCount = s.resetCount := rfl
@[simp] theorem countPixel_pending (s : State) : (s.countPixel).pending = s.pending := rfl
@[simp] theorem countPixel_rdata (s : State) : (s.countPixel).rdata = s.rdata := rfl

/-! ### raiseError -/

@[simp] theorem raiseError_state (e : JobError) (s : State) : (raiseError e s).state = .error := by cases e <;> rfl
@[simp] theorem raiseError_err (e : JobError) (s : State) : (raiseError e s).err = e.errCode := by cases e <;> rfl
@[simp] theorem raiseError_w (e : JobError) (s : State) : (raiseError e s).w = s.w := by cases e <;> rfl
@[simp] theorem raiseError_h (e : JobError) (s : State) : (raiseError e s).h = s.h := by cases e <;> rfl
@[simp] theorem raiseError_pixcount (e : JobError) (s : State) : (raiseError e s).pixcount = s.pixcount := by cases e <;> rfl
@[simp] theorem raiseError_palN (e : JobError) (s : State) : (raiseError e s).palN = s.palN := by cases e <;> rfl
@[simp] theorem raiseError_palColor (e : JobError) (s : State) : (raiseError e s).palColor = s.palColor := by cases e <;> rfl
@[simp] theorem raiseError_idx (e : JobError) (s : State) : (raiseError e s).idx = s.idx := by cases e <;> rfl
@[simp] theorem raiseError_resetCount (e : JobError) (s : State) : (raiseError e s).resetCount = s.resetCount := by cases e <;> rfl
@[simp] theorem raiseError_pending (e : JobError) (s : State) : (raiseError e s).pending = s.pending := by cases e <;> rfl
@[simp] theorem raiseError_rdata (e : JobError) (s : State) : (raiseError e s).rdata = s.rdata := by cases e <;> rfl

/-! ### clearJob -/

@[simp] theorem clearJob_state (s : State) : (clearJob s).state = .idle := rfl
@[simp] theorem clearJob_err (s : State) : (clearJob s).err = .noError := rfl
@[simp] theorem clearJob_w (s : State) : (clearJob s).w = 0 := rfl
@[simp] theorem clearJob_h (s : State) : (clearJob s).h = 0 := rfl
@[simp] theorem clearJob_pixcount (s : State) : (clearJob s).pixcount = 0 := rfl
@[simp] theorem clearJob_palN (s : State) : (clearJob s).palN = 0 := rfl
@[simp] theorem clearJob_palColor (s : State) : (clearJob s).palColor = Vector.replicate 4 0 := rfl
@[simp] theorem clearJob_errX (s : State) : (clearJob s).errX = 0 := rfl
@[simp] theorem clearJob_errY (s : State) : (clearJob s).errY = 0 := rfl
@[simp] theorem clearJob_errClr (s : State) : (clearJob s).errClr = 0 := rfl
@[simp] theorem clearJob_idx (s : State) : (clearJob s).idx = s.idx := rfl
@[simp] theorem clearJob_resetCount (s : State) : (clearJob s).resetCount = s.resetCount := rfl
@[simp] theorem clearJob_pending (s : State) : (clearJob s).pending = s.pending := rfl
@[simp] theorem clearJob_rdata (s : State) : (clearJob s).rdata = s.rdata := rfl

/-! ### openJob -/

@[simp] theorem openJob_state (w h : Dim) (s : State) : (openJob w h s).state = .loading := rfl
@[simp] theorem openJob_err (w h : Dim) (s : State) : (openJob w h s).err = s.err := rfl
@[simp] theorem openJob_w (w h : Dim) (s : State) : (openJob w h s).w = w := rfl
@[simp] theorem openJob_h (w h : Dim) (s : State) : (openJob w h s).h = h := rfl
@[simp] theorem openJob_pixcount (w h : Dim) (s : State) : (openJob w h s).pixcount = 0 := rfl
@[simp] theorem openJob_palN (w h : Dim) (s : State) : (openJob w h s).palN = s.palN := rfl
@[simp] theorem openJob_palColor (w h : Dim) (s : State) : (openJob w h s).palColor = s.palColor := rfl
@[simp] theorem openJob_errX (w h : Dim) (s : State) : (openJob w h s).errX = s.errX := rfl
@[simp] theorem openJob_errY (w h : Dim) (s : State) : (openJob w h s).errY = s.errY := rfl
@[simp] theorem openJob_errClr (w h : Dim) (s : State) : (openJob w h s).errClr = s.errClr := rfl
@[simp] theorem openJob_idx (w h : Dim) (s : State) : (openJob w h s).idx = s.idx := rfl
@[simp] theorem openJob_resetCount (w h : Dim) (s : State) : (openJob w h s).resetCount = s.resetCount := rfl
@[simp] theorem openJob_pending (w h : Dim) (s : State) : (openJob w h s).pending = s.pending := rfl
@[simp] theorem openJob_rdata (w h : Dim) (s : State) : (openJob w h s).rdata = s.rdata := rfl

/-! ### resetBlock -/

@[simp] theorem resetBlock_state (s : State) : (resetBlock s).state = .idle := rfl
@[simp] theorem resetBlock_err (s : State) : (resetBlock s).err = .noError := rfl
@[simp] theorem resetBlock_w (s : State) : (resetBlock s).w = 0 := rfl
@[simp] theorem resetBlock_h (s : State) : (resetBlock s).h = 0 := rfl
@[simp] theorem resetBlock_pixcount (s : State) : (resetBlock s).pixcount = 0 := rfl
@[simp] theorem resetBlock_palN (s : State) : (resetBlock s).palN = 0 := rfl
@[simp] theorem resetBlock_palColor (s : State) : (resetBlock s).palColor = Vector.replicate 4 0 := rfl
@[simp] theorem resetBlock_errX (s : State) : (resetBlock s).errX = 0 := rfl
@[simp] theorem resetBlock_errY (s : State) : (resetBlock s).errY = 0 := rfl
@[simp] theorem resetBlock_errClr (s : State) : (resetBlock s).errClr = 0 := rfl
@[simp] theorem resetBlock_idx (s : State) : (resetBlock s).idx = [] := rfl
@[simp] theorem resetBlock_resetCount (s : State) : (resetBlock s).resetCount = s.resetCount + 1 := rfl
@[simp] theorem resetBlock_pending (s : State) : (resetBlock s).pending = s.pending := rfl
@[simp] theorem resetBlock_rdata (s : State) : (resetBlock s).rdata = none := rfl

/-! ### acceptPixel -/

@[simp] theorem acceptPixel_state (i : PalIndex) (s : State) : (acceptPixel i s).state = if (s.pixcount + 1).toNat = s.npix then .loaded else s.state := rfl
@[simp] theorem acceptPixel_err (i : PalIndex) (s : State) : (acceptPixel i s).err = s.err := rfl
@[simp] theorem acceptPixel_w (i : PalIndex) (s : State) : (acceptPixel i s).w = s.w := rfl
@[simp] theorem acceptPixel_h (i : PalIndex) (s : State) : (acceptPixel i s).h = s.h := rfl
@[simp] theorem acceptPixel_pixcount (i : PalIndex) (s : State) : (acceptPixel i s).pixcount = s.pixcount + 1 := rfl
@[simp] theorem acceptPixel_palN (i : PalIndex) (s : State) : (acceptPixel i s).palN = s.palN := rfl
@[simp] theorem acceptPixel_palColor (i : PalIndex) (s : State) : (acceptPixel i s).palColor = s.palColor := rfl
@[simp] theorem acceptPixel_errX (i : PalIndex) (s : State) : (acceptPixel i s).errX = s.errX := rfl
@[simp] theorem acceptPixel_errY (i : PalIndex) (s : State) : (acceptPixel i s).errY = s.errY := rfl
@[simp] theorem acceptPixel_errClr (i : PalIndex) (s : State) : (acceptPixel i s).errClr = s.errClr := rfl
@[simp] theorem acceptPixel_idx (i : PalIndex) (s : State) : (acceptPixel i s).idx = s.idx.write (cellKey s.curY s.curX) i := rfl
@[simp] theorem acceptPixel_resetCount (i : PalIndex) (s : State) : (acceptPixel i s).resetCount = s.resetCount := rfl
@[simp] theorem acceptPixel_pending (i : PalIndex) (s : State) : (acceptPixel i s).pending = s.pending := rfl
@[simp] theorem acceptPixel_rdata (i : PalIndex) (s : State) : (acceptPixel i s).rdata = s.rdata := rfl

/-! ### The information fields of an error entry (R160): written for TOO_MANY_COLORS only. -/

@[simp] theorem raiseError_errX_tooManyColors (x y : Nat) (c : Color) (s : State) :
    (raiseError (.tooManyColors x y c) s).errX = BitVec.ofNat 8 x := rfl

@[simp] theorem raiseError_errY_tooManyColors (x y : Nat) (c : Color) (s : State) :
    (raiseError (.tooManyColors x y c) s).errY = BitVec.ofNat 8 y := rfl

@[simp] theorem raiseError_errClr_tooManyColors (x y : Nat) (c : Color) (s : State) :
    (raiseError (.tooManyColors x y c) s).errClr = c := rfl

theorem raiseError_info_unchanged (e : JobError) (s : State) (h : e.errCode ≠ .tooManyColors) :
    (raiseError e s).errX = s.errX ∧ (raiseError e s).errY = s.errY ∧ (raiseError e s).errClr = s.errClr := by
  cases e <;> first | exact ⟨rfl, rfl, rfl⟩ | exact absurd rfl h

end Sys2Proof.Machine
end

