-- ==== Sys2Proof/Laws/Memory.lean ====
section
/-! SUPPORT. The IndexGrid memory: its canonical form is kept, and a read after a write gives the value written and no other cell
changes. -/

namespace Sys2Proof.Machine

@[simp] theorem Memory.read?_nil (key : Nat) : Memory.read? [] key = none := rfl

theorem Memory.read?_cons (k : Nat) (v : PalIndex) (m : Memory) (key : Nat) :
    Memory.read? ((k, v) :: m) key = if k = key then some v else Memory.read? m key := rfl

theorem Memory.read?_write (m : Memory) (key : Nat) (v : PalIndex) (key' : Nat) :
    (m.write key v).read? key' = if key = key' then some v else m.read? key' := by
  induction m with
  | nil => rfl
  | cons e m ih =>
    obtain ⟨k, u⟩ := e
    unfold Memory.write
    split
    · rfl
    · split
      · subst key
        simp only [Memory.read?_cons]
        split <;> rfl
      · simp only [Memory.read?_cons, ih]
        split
        · next h => rw [if_neg (by omega)]
        · rfl

@[simp] theorem Memory.read?_write_same (m : Memory) (key : Nat) (v : PalIndex) : (m.write key v).read? key = some v := by
  simp [Memory.read?_write]

theorem Memory.read?_write_other (m : Memory) {key key' : Nat} (v : PalIndex) (h : key' ≠ key) :
    (m.write key v).read? key' = m.read? key' := by
  simp [Memory.read?_write, Ne.symm h]

theorem Memory.mem_keys_write (m : Memory) (key : Nat) (v : PalIndex) (k : Nat) :
    k ∈ (m.write key v).map Prod.fst → k = key ∨ k ∈ m.map Prod.fst := by
  induction m with
  | nil => simp [Memory.write]
  | cons e m ih =>
    obtain ⟨k', u⟩ := e
    unfold Memory.write
    split
    · simp
    · split
      · simp only [List.map_cons, List.mem_cons]
        tauto
      · simp only [List.map_cons, List.mem_cons]
        tauto

/-- Every memory operation keeps the canonical form: the empty memory has it, and the one write keeps it. -/
theorem Memory.wf_nil : Memory.wf [] := List.Pairwise.nil

theorem Memory.wf_write (m : Memory) (key : Nat) (v : PalIndex) (h : m.wf) : (m.write key v).wf := by
  induction m with
  | nil => simp [Memory.write, Memory.wf]
  | cons e m ih =>
    obtain ⟨k, u⟩ := e
    simp only [Memory.wf, List.map_cons, List.pairwise_cons] at h
    unfold Memory.write
    split
    · next hlt =>
      simp only [Memory.wf, List.map_cons, List.pairwise_cons, List.mem_cons]
      refine ⟨?_, h⟩
      rintro a (rfl | ha)
      · exact hlt
      · exact hlt.trans (h.1 a ha)
    · split
      · next heq =>
        subst heq
        simp only [Memory.wf, List.map_cons, List.pairwise_cons]
        exact h
      · simp only [Memory.wf, List.map_cons, List.pairwise_cons]
        refine ⟨fun a ha => ?_, ih h.2⟩
        rcases Memory.mem_keys_write m key v a ha with rfl | ha
        · omega
        · exact h.1 a ha

/-- Two positions of the 256 by 256 grid share a cell number only if they are the same position. -/
theorem cellKey_inj {y x y' x' : Nat} (hy : y < 256) (hx : x < 256) (hy' : y' < 256) (hx' : x' < 256)
    (h : cellKey y x = cellKey y' x') : y = y' ∧ x = x' := by
  simp only [cellKey, Config.maxDim] at h
  omega

theorem cellKey_lt (y x : Nat) : cellKey y x < 65536 := by
  simp only [cellKey, Config.maxDim]
  omega

/-- A cell reads the value just written to it; every other cell reads as before. -/
theorem State.cell_setCell (s : State) (y x : Nat) (v : PalIndex) (y' x' : Nat) :
    (s.setCell y x v).cell y' x' = if cellKey y x = cellKey y' x' then v else s.cell y' x' := by
  by_cases hk : cellKey y x = cellKey y' x' <;> simp [State.cell, Memory.read?_write, hk]

/-- A state update that writes neither the IndexGrid nor the reset count changes no cell. -/
theorem State.cell_congr {s t : State} (hi : t.idx = s.idx) (hr : t.resetCount = s.resetCount) (y x : Nat) :
    t.cell y x = s.cell y x := by
  simp only [State.cell, hi, hr]

end Sys2Proof.Machine
end

