-- ==== Sys2Proof/Laws/Operands.lean ====
section
/-! SUPPORT. What the operand forms and the packing compute: the palette lookup, the dimension predicate, the bits of a packed byte. -/

namespace Sys2Proof.Machine

/-- What `dimOk` says, as arithmetic. -/
theorem dimOk_iff (v : Dim) : dimOk v = true ↔ 8 ≤ v.toNat ∧ v.toNat ≤ 256 ∧ v.toNat % 8 = 0 := by
  simp [dimOk, and_assoc]

/-- What `palValid` says, as arithmetic (R27). -/
theorem palValid_iff (s : State) (i : PalIndex) : s.palValid i = true ↔ i.toNat < s.palN.toNat := by
  simp [State.palValid]

/-- A palette index is one of the four. -/
theorem palIndex_mem (i : PalIndex) : i ∈ [0#2, 1#2, 2#2, 3#2] := by
  revert i
  decide

/-- What a hit of the lookup says. -/
theorem lookup_some (s : State) (c : Color) (i : PalIndex) (h : s.lookup c = some i) :
    s.palValid i = true ∧ s.palEntry i = c := by
  have := List.find?_some h
  simpa using this

/-- What a miss of the lookup says. -/
theorem lookup_none (s : State) (c : Color) (h : s.lookup c = none) (i : PalIndex) (hi : s.palValid i = true) :
    s.palEntry i ≠ c := by
  have := List.find?_eq_none.mp h i (palIndex_mem i)
  simpa [hi] using this

/-- The lookup misses only if no valid entry holds the colour. -/
theorem lookup_isSome (s : State) (c : Color) (i : PalIndex) (hi : s.palValid i = true) (hc : s.palEntry i = c) :
    ∃ j, s.lookup c = some j := by
  cases h : s.lookup c with
  | none => exact absurd hc (lookup_none s c h i hi)
  | some j => exact ⟨j, rfl⟩

/-- Bit `7 - j` of a packed byte is the bit of pixel `j` from the left (R143). -/
theorem packByte_bit (f : Nat → Bool) (j : Nat) (hj : j < 8) : (packByte f).getLsbD (7 - j) = f j := by
  have key : ∀ b0 b1 b2 b3 b4 b5 b6 b7 : Bool, ∀ k : Fin 8,
      (packByte fun n => [b0, b1, b2, b3, b4, b5, b6, b7].getD n false).getLsbD (7 - k.val) =
        [b0, b1, b2, b3, b4, b5, b6, b7].getD k.val false := by decide
  have h := key (f 0) (f 1) (f 2) (f 3) (f 4) (f 5) (f 6) (f 7) ⟨j, hj⟩
  have hf : (packByte fun n => [f 0, f 1, f 2, f 3, f 4, f 5, f 6, f 7].getD n false) = packByte f := by
    simp [packByte, List.range, List.range.loop]
  rw [hf] at h
  rw [h]
  interval_cases j <;> rfl

end Sys2Proof.Machine
end

