-- ==== Sys2Proof/Laws/Exec.lean ====
section
/-! SUPPORT. What each shared operation and each command can do, said once: the cases of its next state. -/

namespace Sys2Proof.Machine

theorem unlessError_cases (s e : State) :
    (s.state = .error ∧ unlessError s e = s) ∨ (s.state ≠ .error ∧ unlessError s e = e) := by
  unfold unlessError
  split <;> simp_all

theorem illegalWord_cases (s : State) :
    (s.state = .error ∧ illegalWord s = s) ∨ (s.state ≠ .error ∧ illegalWord s = raiseError .illegalCommand s) :=
  unlessError_cases s _

/-- The three outcomes of a pixel delivered in LOADING (R121). -/
theorem deliverPixel_cases (c : Color) (s : State) :
    (∃ i, s.lookup c = some i ∧ deliverPixel c s = acceptPixel i s) ∨
    (s.lookup c = none ∧ s.palN.toNat = 4 ∧ deliverPixel c s = raiseError (.tooManyColors s.curX s.curY c) s) ∨
    (s.lookup c = none ∧ s.palN.toNat ≠ 4 ∧ deliverPixel c s = acceptPixel s.nextIndex (s.addColor c)) := by
  unfold deliverPixel
  cases s.lookup c with
  | some i => exact .inl ⟨i, rfl, rfl⟩
  | none => by_cases h : s.palN.toNat = 4 <;> simp [h]

theorem execNop_next (s : State) : execNop s = .next s := rfl

theorem execClear_next (s : State) : execClear s = .next (clearJob s) := rfl

/-- The four outcomes of SETDIM (R102, R163). -/
theorem execSetdim_cases (w h : Dim) (s : State) :
    (s.state = .error ∧ execSetdim w h s = .next s) ∨
    (s.state ≠ .error ∧ s.state ≠ .idle ∧ execSetdim w h s = .next (raiseError .sequence s)) ∨
    (s.state = .idle ∧ ¬ (dimOk w ∧ dimOk h) ∧ execSetdim w h s = .next (raiseError .dimension s)) ∨
    (s.state = .idle ∧ dimOk w ∧ dimOk h ∧ execSetdim w h s = .next (openJob w h s)) := by
  cases hs : s.state <;> simp only [execSetdim, unlessError, hs] <;> try simp
  by_cases hw : dimOk w <;> by_cases hh : dimOk h <;> simp [hw, hh]

/-- The three outcomes of PIXEL (R121, R163). -/
theorem execPixel_cases (c : Color) (s : State) :
    (s.state = .error ∧ execPixel c s = .next s) ∨
    (s.state ≠ .error ∧ s.state ≠ .loading ∧ execPixel c s = .next (raiseError .sequence s)) ∨
    (s.state = .loading ∧ execPixel c s = .next (deliverPixel c s)) := by
  cases hs : s.state <;> simp [execPixel, unlessError, hs]

/-- The four outcomes of ENCODE (R140, R163). -/
theorem execEncode_cases (s : State) :
    (s.state = .error ∧ execEncode s = .next s) ∨
    (s.state = .loaded ∧ execEncode s = .next { s with state := .done }) ∨
    (s.state = .done ∧ execEncode s = .next s) ∨
    ((s.state = .idle ∨ s.state = .loading) ∧ execEncode s = .next (raiseError .sequence s)) := by
  cases hs : s.state <;> simp [execEncode, unlessError, hs]

end Sys2Proof.Machine
end

