-- ==== Sys2Proof/Laws/Bus.lean ====
section
/-! SUPPORT. What one delivered word, one transaction and one step can do, said once. -/

namespace Sys2Proof.Machine

theorem performCommand_ok (cmd : Word) (i : Instr) (s : State) (h : decode cmd = .ok i) :
    performCommand cmd s = exec i s := by
  simp [performCommand, h]

theorem performCommand_illegal (cmd : Word) (why : Illegal) (s : State) (h : decode cmd = .illegal why) :
    performCommand cmd s = .next (illegalWord s) := by
  simp [performCommand, h]

/-- A delivered word is performed, or is illegal. -/
theorem performCommand_cases (cmd : Word) (s : State) :
    (∃ i, decode cmd = .ok i ∧ performCommand cmd s = exec i s) ∨
    (∃ why, decode cmd = .illegal why ∧ performCommand cmd s = .next (illegalWord s)) := by
  cases h : decode cmd with
  | ok i => exact .inl ⟨i, rfl, performCommand_ok cmd i s h⟩
  | illegal why => exact .inr ⟨why, rfl, performCommand_illegal cmd why s h⟩

/-- A transaction reads, delivers a command word, or is a write that is ignored. -/
theorem performTransaction_cases (t : Transaction) (s : State) :
    (∃ a z, t = .read a z ∧ performTransaction t s = .next { s with rdata := some (s.busRead a z) }) ∨
    (∃ a d, t = .write a .four d ∧ effectiveAddress a .four = cmdAddr ∧ performTransaction t s = performCommand d s) ∨
    (∃ a z d, t = .write a z d ∧ ¬ (z = .four ∧ effectiveAddress a z = cmdAddr) ∧ performTransaction t s = .next s) := by
  cases t with
  | read a z => exact .inl ⟨a, z, rfl, rfl⟩
  | write a z d =>
    by_cases h : z = .four ∧ effectiveAddress a z = cmdAddr
    · obtain ⟨rfl, ha⟩ := h
      exact .inr (.inl ⟨a, d, rfl, ha, by simp [performTransaction, busWrite, ha]⟩)
    · exact .inr (.inr ⟨a, z, d, rfl, h, by simp only [performTransaction, busWrite, if_neg h]⟩)

/-- What a step does: nothing waits; a cycle in reset; a cycle without `sel`; a transaction. -/
theorem step_cases (s : State) :
    (s.pending = [] ∧ step s = .next (idleCycle s)) ∨
    (∃ c rest, s.pending = c :: rest ∧ c.rstN = false ∧
      step s = .next { resetBlock { s with pending := rest } with rdata := readDataInReset c }) ∨
    (∃ c rest, s.pending = c :: rest ∧ c.rstN = true ∧ c.transaction = none ∧
      step s = .next { s with pending := rest, rdata := none }) ∨
    (∃ c rest t, s.pending = c :: rest ∧ c.rstN = true ∧ c.transaction = some t ∧
      step s = performTransaction t { s with pending := rest, rdata := none }) := by
  unfold step takeCycle
  cases hp : s.pending with
  | nil => exact .inl ⟨rfl, rfl⟩
  | cons c rest =>
    cases hr : c.rstN with
    | false => exact .inr (.inl ⟨c, rest, rfl, hr, by simp [performCycle, hr]⟩)
    | true =>
      cases ht : c.transaction with
      | none => exact .inr (.inr (.inl ⟨c, rest, rfl, hr, ht, by simp [performCycle, hr, ht]⟩))
      | some t => exact .inr (.inr (.inr ⟨c, rest, t, rfl, hr, ht, by simp [performCycle, hr, ht]⟩))

/-- The pins of a transaction present that transaction, but for the write data of a read, which a read does not have. -/
@[simp] theorem transaction_cycle (t : Transaction) : t.cycle.transaction = some t := by
  cases t with
  | read a z => cases z <;> rfl
  | write a z d => cases z <;> rfl

@[simp] theorem rstN_cycle (t : Transaction) : t.cycle.rstN = true := by
  cases t <;> rfl

end Sys2Proof.Machine
end

