-- ==== Sys2Proof/Laws/Fields.lean ====
section
/-! SUPPORT. The bits of a placed field, which every encoding and every register is made of. -/

namespace Sys2Proof

/-- Bit `k` of a field placed at `lo` is bit `k - lo` of its value, and every bit below `lo` is 0. -/
theorem placeField_bit {n : Nat} (lo : Nat) (v : BitVec n) (k : Nat) (hk : k < 32) :
    (placeField lo v).getLsbD k = (decide (lo ≤ k) && v.getLsbD (k - lo)) := by
  by_cases h : lo ≤ k
  · simp [placeField, h, hk, Nat.not_lt.mpr h]
  · simp [placeField, h, Nat.lt_of_not_le h]

/-- A field that fits reads back as the number it was placed as. -/
theorem placeField_toNat {n : Nat} (lo : Nat) (v : BitVec n) (h : lo + n ≤ 32) :
    (placeField lo v).toNat = v.toNat * 2 ^ lo := by
  have hv : v.toNat < 2 ^ n := v.isLt
  have hp : 2 ^ n * 2 ^ lo ≤ 2 ^ 32 := by
    rw [← Nat.pow_add]
    exact Nat.pow_le_pow_right (by omega) (by omega)
  have hn : 2 ^ n ≤ 2 ^ 32 := Nat.pow_le_pow_right (by omega) (by omega)
  have hlt : v.toNat * 2 ^ lo < 2 ^ 32 :=
    lt_of_lt_of_le (Nat.mul_lt_mul_of_pos_right hv (Nat.two_pow_pos lo)) hp
  rw [placeField, BitVec.toNat_shiftLeft, BitVec.toNat_setWidth, Nat.shiftLeft_eq,
    Nat.mod_eq_of_lt (lt_of_lt_of_le hv hn), Nat.mod_eq_of_lt hlt]

end Sys2Proof
end

