-- ==== Sys2Proof/Laws/Invariant.lean ====
section
/-! SUPPORT. What the invariant gives to one operation (the cursor inside the image, a counter that does not wrap, the next palette entry), and
that error entry keeps it. -/

namespace Sys2Proof.Machine

theorem jobOpen_iff (s : State) : s.jobOpen = true ↔ s.state = .loading ∨ s.state = .loaded ∨ s.state = .done := by
  cases h : s.state <;> simp [State.jobOpen, h]

/-- The cursor stays inside the image while LOADING, and is the pixel's row-major position (R22). -/
theorem cursor_bounds (s : State) (h : s.Inv) (hl : s.state = .loading) :
    s.curX < s.w.toNat ∧ s.curY < s.h.toNat ∧ s.w.toNat ≤ 256 ∧ s.h.toNat ≤ 256 ∧
    s.curY * s.w.toNat + s.curX = s.pixcount.toNat := by
  have hd := h.open_dims (by simp [State.jobOpen, hl])
  rw [dimOk_iff, dimOk_iff] at hd
  have hp := h.loading_lt hl
  unfold State.npix at hp
  refine ⟨Nat.mod_lt _ (by omega), ?_, by omega, by omega, ?_⟩
  · unfold State.curY
    rw [Nat.div_lt_iff_lt_mul (by omega), Nat.mul_comm]
    exact hp
  · unfold State.curX State.curY
    rw [Nat.mul_comm]
    exact Nat.div_add_mod _ _

/-- The pixel counter does not wrap in LOADING (R22: it never wraps). -/
theorem pixcount_succ (s : State) (h : s.Inv) (hl : s.state = .loading) :
    (s.pixcount + 1).toNat = s.pixcount.toNat + 1 := by
  obtain ⟨-, -, hw, hh, -⟩ := cursor_bounds s h hl
  have hlt := h.loading_lt hl
  have hn : s.npix ≤ 256 * 256 := Nat.mul_le_mul hw hh
  rw [BitVec.toNat_add, show (1 : BitVec 17).toNat = 1 from rfl, Nat.mod_eq_of_lt (by omega)]

/-- Two positions of one image with the same row-major number are the same. -/
theorem position_unique {w y x y' x' : Nat} (hx : x < w) (hx' : x' < w) (h : y * w + x = y' * w + x') : y = y' ∧ x = x' := by
  have hm := congrArg (· % w) h
  simp only [Nat.mul_add_mod_self_right, Nat.mod_eq_of_lt hx, Nat.mod_eq_of_lt hx'] at hm
  exact ⟨Nat.eq_of_mul_eq_mul_right (show 0 < w by omega) (by omega), hm⟩

/-- An accepted pixel writes the cell at the cursor and no other. -/
theorem acceptPixel_cell (s : State) (i : PalIndex) (y x : Nat) :
    (acceptPixel i s).cell y x = if cellKey s.curY s.curX = cellKey y x then i else s.cell y x := by
  have h := State.cell_congr (s := s.setCell s.curY s.curX i) (t := acceptPixel i s) rfl rfl y x
  rw [h, State.cell_setCell]

/-- The next index is PAL_N while there is room for one more entry. -/
theorem nextIndex_toNat (s : State) (h : s.palN.toNat < 4) : s.nextIndex.toNat = s.palN.toNat := by
  simp [State.nextIndex]
  omega

theorem addColor_palN_toNat (s : State) (c : Color) (h : s.palN.toNat < 4) :
    (s.addColor c).palN.toNat = s.palN.toNat + 1 := by
  rw [addColor_palN, BitVec.toNat_add, show (1 : BitVec 3).toNat = 1 from rfl, Nat.mod_eq_of_lt (by omega)]

/-- A new colour takes entry PAL_N and changes no other entry. -/
theorem addColor_palEntry (s : State) (c : Color) (h : s.palN.toNat < 4) (i : PalIndex) :
    (s.addColor c).palEntry i = if i.toNat = s.palN.toNat then c else s.palEntry i := by
  simp only [State.palEntry, addColor_palColor, Vector.getElem_set, nextIndex_toNat s h, eq_comm]

/-- The invariant does not depend on the model's own fields. -/
theorem State.Inv.congr {s t : State} (h : s.Inv) (h1 : t.state = s.state) (h2 : t.err = s.err) (h3 : t.w = s.w) (h4 : t.h = s.h)
    (h5 : t.pixcount = s.pixcount) (h6 : t.palN = s.palN) (h7 : t.palColor = s.palColor) (h8 : t.errX = s.errX)
    (h9 : t.errY = s.errY) (h10 : t.errClr = s.errClr) (h11 : t.idx = s.idx) : t.Inv := by
  obtain ⟨a1, a2, a3, a4, a5, a6, a7, a8, a9, a10, a11, a12, a13, a14⟩ := h
  cases s
  cases t
  subst h1 h2 h3 h4 h5 h6 h7 h8 h9 h10 h11
  exact ⟨a1, a2, a3, a4, a5, a6, a7, a8, a9, a10, a11, a12, a13, a14⟩

/-- Error entry keeps the invariant from every state but ERROR (R160). -/
theorem raiseError_inv (e : JobError) (s : State) (h : s.Inv) (hs : s.state ≠ .error) : (raiseError e s).Inv where
  memory_wf := by simpa using h.memory_wf
  palN_le := by simpa using h.palN_le
  colors_distinct := by simpa [State.palValid, State.palEntry] using h.colors_distinct
  pixcount_le := by simpa [State.npix] using h.pixcount_le
  loading_lt := by simp
  complete := by simp
  idle_zero := by simp
  open_dims := by simp [State.jobOpen]
  error_dims := by
    intro _
    simp only [raiseError_w, raiseError_h]
    by_cases hi : s.state = .idle
    · exact .inl ⟨(h.idle_zero hi).1, (h.idle_zero hi).2.1⟩
    · refine .inr (h.open_dims ((jobOpen_iff s).mpr ?_))
      cases hh : s.state <;> simp_all
  some_color := by simp [State.jobOpen]
  palN_le_pixcount := by simpa using h.palN_le_pixcount
  cells_valid := by simp [State.jobOpen]
  err_iff := by
    simp only [raiseError_err, raiseError_state]
    cases e <;> simp [JobError.errCode]
  err_info := by
    intro hne
    rw [raiseError_err] at hne
    obtain ⟨hx, hy, hc⟩ := raiseError_info_unchanged e s hne
    rw [hx, hy, hc]
    exact h.err_info (by simp [h.err_iff.mpr hs])

end Sys2Proof.Machine
end

