-- ==== Sys2Proof/Laws/PerInstr.lean ====
section
/-! SUPPORT. What holds of every instruction as syntax, one lemma per constructor. -/

namespace Sys2Proof.Laws

/-- The row of R75 that an instruction belongs to. -/
def rowOf : Instr → OpcodeRow
  | .nop => ⟨.nop, 0x00000000#32, 0xFFFFFFFF#32⟩
  | .clear => ⟨.clear, 0x10000000#32, 0xFFFFFFFF#32⟩
  | .setdim _ _ => ⟨.setdim, 0x20000000#32, 0xFE00FE00#32⟩
  | .pixel _ => ⟨.pixel, 0x30000000#32, 0xFF000000#32⟩
  | .encode => ⟨.encode, 0x40000000#32, 0xFFFFFFFF#32⟩

/-- The family: the word of an instruction is selected by its own row of the opcode table. -/
def SelectedByOwnRow.Statement (i : Instr) : Prop :=
  rowOf i ∈ opcodeTable ∧ (rowOf i).selects (Sys2Proof.encode i) = true

theorem SelectedByOwnRow.nop : SelectedByOwnRow.Statement .nop := by
  unfold SelectedByOwnRow.Statement
  decide

theorem SelectedByOwnRow.clear : SelectedByOwnRow.Statement .clear := by
  unfold SelectedByOwnRow.Statement
  decide

theorem SelectedByOwnRow.setdim (w h : Dim) : SelectedByOwnRow.Statement (.setdim w h) := by
  refine ⟨by simp [rowOf, opcodeTable], ?_⟩
  simp only [rowOf, OpcodeRow.selects, beq_iff_eq, Sys2Proof.encode]
  apply BitVec.eq_of_getLsbD_eq
  intro k hk
  interval_cases k <;> simp [placeField]

theorem SelectedByOwnRow.pixel (c : Color) : SelectedByOwnRow.Statement (.pixel c) := by
  refine ⟨by simp [rowOf, opcodeTable], ?_⟩
  simp only [rowOf, OpcodeRow.selects, beq_iff_eq, Sys2Proof.encode]
  apply BitVec.eq_of_getLsbD_eq
  intro k hk
  interval_cases k <;> simp [placeField]

theorem SelectedByOwnRow.encode : SelectedByOwnRow.Statement .encode := by
  unfold SelectedByOwnRow.Statement
  decide

end Sys2Proof.Laws
end

