-- ==== Sys2Proof/Laws/Registers.lean ====
section
/-! SUPPORT. What host reads depend on: the elements of R43, and of the IndexGrid only the image's cells, in DONE. The waiting cycles and
the read data pins have no part in it. -/

namespace Sys2Proof.Machine

/-- A register depends on the elements its field table names. -/
theorem State.readReg_congr {s t : State} (hs : t.state = s.state) (he : t.err = s.err) (hw : t.w = s.w) (hh : t.h = s.h)
    (hp : t.pixcount = s.pixcount) (hn : t.palN = s.palN) (hc : t.palColor = s.palColor) (hx : t.errX = s.errX)
    (hy : t.errY = s.errY) (hr : t.errClr = s.errClr) (r : RegName) : t.readReg r = s.readReg r := by
  cases r <;>
    simp [readReg, statusWord, dimWord, pixcountWord, errPosWord, errColorWord, geomWord, palWord, palValid, palEntry, tileCount,
      tileCols, tileRows, hs, he, hw, hh, hp, hn, hc, hx, hy, hr]

/-- A TileSet byte depends on STATE, W, H and the cells it packs. -/
theorem State.tileSetByte_congr {s t : State} (hs : t.state = s.state) (hw : t.w = s.w) (hh : t.h = s.h) (a : Nat)
    (hc : s.state = .done → a < 16 * s.tileCount → ∀ j, j < 8 →
      t.cell (8 * (a / 16 / s.tileCols) + a % 16 / 2) (8 * (a / 16 % s.tileCols) + j) =
        s.cell (8 * (a / 16 / s.tileCols) + a % 16 / 2) (8 * (a / 16 % s.tileCols) + j)) :
    t.tileSetByte a = s.tileSetByte a := by
  have hcols : t.tileCols = s.tileCols := by simp [tileCols, hw]
  have hcount : t.tileCount = s.tileCount := by simp [tileCount, tileCols, tileRows, hw, hh]
  simp only [tileSetByte, hs, hcount, hcols, Config.bytesPerTile, Config.tileDim]
  split
  · rfl
  · next hn =>
    obtain ⟨hd, hlt⟩ := not_or.mp hn
    have hc' := hc (not_not.mp hd) (not_le.mp hlt)
    simp only [planeByte, packByte, List.range, List.range.loop, List.foldl, hc' 0 (by omega), hc' 1 (by omega), hc' 2 (by omega),
      hc' 3 (by omega), hc' 4 (by omega), hc' 5 (by omega), hc' 6 (by omega), hc' 7 (by omega)]

/-- A host read depends on the registers and the TileSet bytes only. -/
theorem State.busRead_congr {s t : State} (hr : ∀ r, t.readReg r = s.readReg r) (ht : ∀ a, t.tileSetByte a = s.tileSetByte a)
    (addr : Addr) (z : AccessSize) : t.busRead addr z = s.busRead addr z := by
  have hwin : ∀ n a, t.readWindowBytes a n = s.readWindowBytes a n := by
    intro n
    induction n with
    | zero => intro a; rfl
    | succ n ih => intro a; simp [readWindowBytes, ht, ih]
  have hreg : ∀ ea n, t.readRegisterBytes ea n = s.readRegisterBytes ea n := by
    intro ea n
    simp only [readRegisterBytes, hr]
  simp only [busRead, hwin, hreg]

/-- A host read does not depend on the waiting cycles or on the read data pins. -/
@[simp] theorem State.busRead_port (s : State) (p : List BusCycle) (d : Option Word) (addr : Addr) (z : AccessSize) :
    State.busRead { s with pending := p, rdata := d } addr z = s.busRead addr z :=
  State.busRead_congr (s := s) (t := { s with pending := p, rdata := d })
    (State.readReg_congr rfl rfl rfl rfl rfl rfl rfl rfl rfl rfl)
    (fun a => State.tileSetByte_congr rfl rfl rfl a fun _ _ _ _ => State.cell_congr rfl rfl _ _) addr z

end Sys2Proof.Machine
end

