-- ==== Sys2Proof/Tests/Slice0.lean ====
section
/-! SUPPORT. Own tests: the spec's words decoded, the ill-formed lines refused, the spec's vectors (95_test_vectors.md) on small states, and
for every statement with hypotheses a state that meets them. -/

namespace Sys2Proof.Tests

open Sys2Proof.Machine

/-! ### Well-formedness: one ill-formed line for each check (R78, R79) -/

theorem test_illformed_setdim_width : (HostLine.setdim 512 8).wellFormed = false := by decide
theorem test_illformed_setdim_height : (HostLine.setdim 8 512).wellFormed = false := by decide
theorem test_illformed_pixel : (HostLine.pixel 0x1000000).wellFormed = false := by decide
theorem test_illformed_rd8 : (HostLine.rd8 0x10000).wellFormed = false := by decide
theorem test_illformed_rd16 : (HostLine.rd16 0x10000).wellFormed = false := by decide
theorem test_illformed_rd32 : (HostLine.rd32 0x10000).wellFormed = false := by decide
theorem test_illformed_wr32_address : (HostLine.wr32 0x10000 0).wellFormed = false := by decide
theorem test_illformed_wr32_data : (HostLine.wr32 0 0x100000000).wellFormed = false := by decide
theorem test_illformed_pixels_colour : (HostLine.pixels 0x1000000 1).wellFormed = false := by decide
theorem test_illformed_pixels_count : (HostLine.pixels 0 0).wellFormed = false := by decide
theorem test_wellformed_bounds :
    (HostLine.setdim 511 511).wellFormed = true ∧ (HostLine.pixel 0xFFFFFF).wellFormed = true ∧
    (HostLine.pixels 0xFFFFFF 1).wellFormed = true ∧ (HostLine.wr32 0xFFFF 0xFFFFFFFF).wellFormed = true := by decide

/-! ### Decoding: words written out from R71 to R73, and the spec's own words -/

/-- OP 0000, RSV 28 zeros (R71). -/
theorem test_decode_nop : decode 0b0000_0000000000000000000000000000#32 = .ok .nop := by decide
/-- OP 0001, RSV 28 zeros (R71). -/
theorem test_decode_clear : decode 0b0001_0000000000000000000000000000#32 = .ok .clear := by decide
/-- OP 0010, RSV 000, HEIGHT 000001000, RSV 0000000, WIDTH 000010000 (R72): SETDIM 16, 8 is 0x20080010 (R102). -/
theorem test_decode_setdim :
    decode 0b0010_000_000001000_0000000_000010000#32 = .ok (.setdim 16 8) ∧ decode 0x20080010#32 = .ok (.setdim 16 8) := by decide
/-- The largest field values: WIDTH 511 and HEIGHT 511 (R72). -/
theorem test_decode_setdim_all_ones : decode 0b0010_000_111111111_0000000_111111111#32 = .ok (.setdim 511 511) := by decide
/-- OP 0011, RSV 0000, COLOR (R73): PIXEL 0x123456 is 0x30123456 (program P3). -/
theorem test_decode_pixel :
    decode 0b0011_0000_000100100011010001010110#32 = .ok (.pixel 0x123456) ∧ decode 0x30123456#32 = .ok (.pixel 0x123456) := by decide
/-- OP 0100, RSV 28 zeros (R71). -/
theorem test_decode_encode : decode 0b0100_0000000000000000000000000000#32 = .ok .encode := by decide
/-- V21, V31, V47, V80 and V81 (R76), and one set bit in each RSV field of SETDIM (R72). -/
theorem test_decode_illegal :
    decode 0x00000001#32 = .illegal .reservedBits ∧ decode 0x10000001#32 = .illegal .reservedBits ∧
    decode 0x3F000000#32 = .illegal .reservedBits ∧ decode 0x50000000#32 = .illegal .reservedOpcode ∧
    decode 0xFFFFFFFF#32 = .illegal .reservedOpcode ∧ decode 0x22080010#32 = .illegal .reservedBits ∧
    decode 0x20080210#32 = .illegal .reservedBits ∧ decode 0x48000000#32 = .illegal .reservedBits := by decide
/-- The encoder gives the words the spec writes (R102, R121, R140). -/
theorem test_encode_words :
    encode .nop = 0x00000000#32 ∧ encode .clear = 0x10000000#32 ∧ encode (.setdim 16 8) = 0x20080010#32 ∧
    encode (.setdim 256 511) = 0x21FF0100#32 ∧ encode (.pixel 0xFFFFFF) = 0x30FFFFFF#32 ∧ encode .encode = 0x40000000#32 := by decide
theorem test_decodeTableWord :
    decodeTableWord 32 0x21000100 = some (.setdim 256 256) ∧ decodeTableWord 32 0x60000000 = none := by decide

/-! ### Small states -/

/-- The state a next outcome holds. -/
def after (o : Host.Outcome State Fault Refusal) : State :=
  match o with
  | .next t => t
  | .fault _ => State.reset
  | .refused _ => State.reset

/-- The STATUS register. -/
def status (s : State) : Word := s.readReg .status

/-- After V22: SETDIM 8, 8 in IDLE. -/
def loading0 : State := { State.reset with state := .loading, w := 8, h := 8 }

/-- After V41: one pixel, 0xFFFFFF. -/
def loading1 : State :=
  { loading0 with pixcount := 1, palN := 1, palColor := #v[0xFFFFFF#24, 0, 0, 0], idx := [(0, 0)] }

/-- The start of V46 but for the pixel count: four colours, four pixels. -/
def loading4 : State :=
  { loading0 with
    pixcount := 4, palN := 4, palColor := #v[0xFF0000#24, 0x00FF00#24, 0x0000FF#24, 0xFFFFFF#24],
    idx := [(0, 0), (1, 1), (2, 2), (3, 3)] }

/-- The IndexGrid of an 8 by 8 image given cell by cell. -/
def grid (f : Nat → Nat → PalIndex) : Memory :=
  (List.range 64).map fun n => (256 * (n / 8) + n % 8, f (n / 8) (n % 8))

/-- 63 pixels of one colour (the start of V44). -/
def loading63 : State := { loading1 with pixcount := 63, idx := (grid fun _ _ => 0).take 63 }

/-- All 64 pixels of one colour (after V44). -/
def loaded1 : State := { loading1 with state := .loaded, pixcount := 64, idx := grid fun _ _ => 0 }

/-- DONE with a given IndexGrid of an 8 by 8 image. -/
def doneWith (f : Nat → Nat → PalIndex) : State :=
  { loading4 with state := .done, pixcount := 64, idx := grid f }

/-- DONE after P5, every row `0,1,2,3,3,2,1,0` (V5). -/
def done4 : State := doneWith fun _ x => [0#2, 1#2, 2#2, 3#2, 3#2, 2#2, 1#2, 0#2].getD x 0

/-- ERROR after a fifth colour as the fifth pixel. -/
def error5 : State :=
  { loading4 with state := .error, err := .tooManyColors, errX := 4, errY := 0, errClr := 0x123456 }

/-- A block in IDLE whose IndexGrid still holds a cell of an earlier job. -/
def idleUsed : State := { State.reset with idx := [(0, 3)], resetCount := 2 }

/-! ### The five commands -/

/-- V20. -/
theorem test_nop_reset : after (exec .nop State.reset) = State.reset := by decide
/-- V29. -/
theorem test_clear_leaves_error :
    status (after (exec .clear error5)) = 0x00000000#32 ∧ (after (exec .clear error5)).readReg .errColor = 0 := by decide
/-- V22. -/
theorem test_setdim_smallest :
    status (after (exec (.setdim 8 8) State.reset)) = 0x00000001#32 ∧
    (after (exec (.setdim 8 8) State.reset)).readReg .geom = 0x00010101#32 := by decide
/-- V23 and V25: the largest size is accepted, 264 is not. -/
theorem test_setdim_bounds :
    (after (exec (.setdim 256 256) State.reset)).readReg .geom = 0x04002020#32 ∧
    status (after (exec (.setdim 264 8) State.reset)) = 0x00000014#32 := by decide
/-- V42: one bit apart is another colour. -/
theorem test_pixel_new_colour :
    status (after (exec (.pixel 0xFFFFFE) loading1)) = 0x00000201#32 ∧
    (after (exec (.pixel 0xFFFFFE) loading1)).readReg (.pal 1) = 0x80FFFFFE#32 := by decide
/-- V46 at pixel (4, 0): the fifth colour. -/
theorem test_pixel_fifth_colour :
    status (after (exec (.pixel 0x123456) loading4)) = 0x00000424#32 ∧
    (after (exec (.pixel 0x123456) loading4)).readReg .errPos = 0x00000004#32 := by decide
/-- V61. -/
theorem test_encode_loaded : status (after (exec .encode loaded1)) = 0x00000103#32 := by decide
/-- V60. -/
theorem test_encode_loading : status (after (exec .encode loading1)) = 0x00000144#32 := by decide

/-! ### The TileSet: packing vectors V5, V8 and V2, V3, which separate index 1 from index 2 -/

theorem test_packing_ramp : (List.range 4).map done4.tileSetByte = [0x5A#8, 0x3C#8, 0x5A#8, 0x3C#8] := by decide
theorem test_packing_checkerboard :
    (List.range 4).map (doneWith fun y x => BitVec.ofNat 2 ((x + y) % 2)).tileSetByte = [0x55#8, 0x00#8, 0xAA#8, 0x00#8] := by decide
theorem test_packing_index_one_and_two :
    (List.range 2).map (doneWith fun _ _ => 1).tileSetByte = [0xFF#8, 0x00#8] ∧
    (List.range 2).map (doneWith fun _ _ => 2).tileSetByte = [0x00#8, 0xFF#8] := by decide

/-! ### The bus: V65, V67, V68, V69, V70, V73, V74 and V72 -/

theorem test_window_reads :
    done4.busRead 0x4000 .two = 0x3C5A#32 ∧ done4.busRead 0x4002 .four = 0x3C5A3C5A#32 ∧ done4.busRead 0x4010 .one = 0 := by decide
theorem test_register_reads :
    done4.busRead 0x0009 .one = 0x04#32 ∧ done4.busRead 0x0004 .four = 0 ∧ done4.busRead 0x0030 .four = 0 ∧
    done4.busRead 0x8000 .four = 0 ∧ done4.busRead 0x0000 .four = 0x47425445#32 := by decide
theorem test_narrow_cmd_write_ignored :
    after (performTransaction (.write 0x0004 .two 0x50000000#32) State.reset) = State.reset := by decide
/-- SETDIM 8, 8 as the first command after reset, through step. -/
theorem test_step_first_command :
    status (after (step (State.reset.withFetchWord 32 0x20080008))) = 0x00000001#32 := by decide
/-- A script line's cycle (R78): RD32 STATUS. -/
theorem test_script_read :
    lineTransactions (.rd32 (registerAddress .status)) = some [.read 0x0008#16 .four] ∧
    lineTransactions (.rd8 (tileAddress 16)) = some [.read 0x4010#16 .one] := by decide

/-! ### The small states meet the invariant -/

/-- The cells of an 8 by 8 image, checked one by one. -/
theorem cells_of_all (s : State) (hw : s.w.toNat = 8) (hp : s.pixcount.toNat ≤ 64)
    (h : ∀ y, y < 8 → ∀ x, x < 8 → y * 8 + x < s.pixcount.toNat → (s.idx.read? (cellKey y x)).any s.palValid = true) :
    ∀ y x, s.received y x → ∃ v, s.idx.read? (cellKey y x) = some v ∧ s.palValid v = true := by
  intro y x hr
  rw [State.received, hw] at hr
  exact (Option.any_eq_true _ _).mp (h y (by omega) x hr.1 hr.2)

/-- The clauses of the invariant that are finite checks, and the cells, make the invariant. -/
theorem inv_of_checks (s : State)
    (h : Memory.wf s.idx ∧ s.palN.toNat ≤ 4 ∧
      (∀ i j : PalIndex, s.palValid i → s.palValid j → s.palEntry i = s.palEntry j → i = j) ∧
      s.pixcount.toNat ≤ s.npix ∧ (s.state = .loading → s.pixcount.toNat < s.npix) ∧
      (s.state = .loaded ∨ s.state = .done → s.pixcount.toNat = s.npix) ∧
      (s.state = .idle → s.w = 0 ∧ s.h = 0 ∧ s.pixcount = 0 ∧ s.palN = 0 ∧ s.err = .noError) ∧
      (s.jobOpen → dimOk s.w ∧ dimOk s.h) ∧
      (s.state = .error → (s.w = 0 ∧ s.h = 0) ∨ (dimOk s.w ∧ dimOk s.h)) ∧
      (s.jobOpen → 1 ≤ s.pixcount.toNat → 1 ≤ s.palN.toNat) ∧ s.palN.toNat ≤ s.pixcount.toNat ∧
      (s.err = .noError ↔ s.state ≠ .error) ∧ (s.err ≠ .tooManyColors → s.errX = 0 ∧ s.errY = 0 ∧ s.errClr = 0))
    (hc : s.jobOpen → ∀ y x, s.received y x → ∃ v, s.idx.read? (cellKey y x) = some v ∧ s.palValid v) : s.Inv := by
  obtain ⟨h1, h2, h3, h4, h5, h6, h7, h8, h9, h10, h11, h12, h13⟩ := h
  exact ⟨h1, h2, h3, h4, h5, h6, h7, h8, h9, h10, h11, hc, h12, h13⟩

theorem loading0_inv : loading0.Inv := inv_of_checks _ (by decide) fun _ => cells_of_all _ rfl (by decide) (by decide)
theorem loading1_inv : loading1.Inv := inv_of_checks _ (by decide) fun _ => cells_of_all _ rfl (by decide) (by decide)
theorem loading4_inv : loading4.Inv := inv_of_checks _ (by decide) fun _ => cells_of_all _ rfl (by decide) (by decide)
theorem loading63_inv : loading63.Inv := inv_of_checks _ (by decide) fun _ => cells_of_all _ rfl (by decide) (by decide)
theorem loaded1_inv : loaded1.Inv := inv_of_checks _ (by decide) fun _ => cells_of_all _ rfl (by decide) (by decide)
theorem done4_inv : done4.Inv := inv_of_checks _ (by decide) fun _ => cells_of_all _ rfl (by decide) (by decide)
theorem error5_inv : error5.Inv := inv_of_checks _ (by decide) fun h => absurd h (by decide)
theorem idleUsed_inv : idleUsed.Inv := inv_of_checks _ (by decide) fun h => absurd h (by decide)

/-! ### Witnesses: states and operands that meet the hypotheses of each statement -/

/-- The bus cycles of the witnesses. -/
def cmdCycle (cmd : Word) : BusCycle := (Transaction.command cmd).cycle
def readCycle (addr : Addr) : BusCycle := (Transaction.read addr .four).cycle
def resetCycle : BusCycle := { readCycle 0x0008 with rstN := false }
def idleBus : BusCycle := { readCycle 0x0008 with sel := false }

theorem witness_EncodeOfDecodeIsTheWord : decode 0x21FF01FF#32 = .ok (.setdim 511 511) := by decide

theorem witness_NoWordMatchesTwoRows :
    (⟨.setdim, 0x20000000#32, 0xFE00FE00#32⟩ : OpcodeRow) ∈ opcodeTable ∧
    (⟨.setdim, 0x20000000#32, 0xFE00FE00#32⟩ : OpcodeRow).selects 0x21FF01FF#32 = true := by decide

/-- One word on each side of each clause: OP 5, a set RSV bit of each format, and 0x10000000 in ERROR. -/
theorem witness_IllegalWordsRaiseOrAreIgnored :
    State.reset.state ≠ .error ∧ error5.state = .error ∧ (0x50000000#32).toNat / 2 ^ 28 = 5 ∧
    decode 0x50000000#32 = .illegal .reservedOpcode ∧ decode 0x00000001#32 = .illegal .reservedBits ∧
    decode 0x22080008#32 = .illegal .reservedBits ∧ decode 0x20080208#32 = .illegal .reservedBits ∧
    decode 0x31000000#32 = .illegal .reservedBits ∧ (0x10000001#32 : Word) ≠ 0x10000000#32 ∧
    decode 0x10000000#32 = .ok .clear ∧ decode 0x00000000#32 = .ok .nop := by decide

theorem witness_WordSelectsMnemonicByMaskAndMatch : 5 ≤ (0x50000000#32).toNat / 2 ^ 28 := by decide

theorem witness_ScriptLinesSpellTheEncodings : 511 ≤ 511 ∧ 511 < 512 ∧ 0xFFFFFF ≤ 0xFFFFFF ∧ 0xFFFFFF < 0x1000000 := by decide

theorem witness_PixelsLineIsThatManyPixelLines : 0xFFFFFF ≤ 0xFFFFFF ∧ 1 ≤ 1 := by decide

/-- A write to 0x0007 counts as one to CMD (R53); the second clause holds of every instruction that decodes back. -/
theorem witness_StepRunsTheDecodedInstruction :
    (Transaction.write 0x0007#16 .four 0x20080008#32).cycle.rstN = true ∧
    (Transaction.write 0x0007#16 .four 0x20080008#32).cycle.transaction = some (.write 0x0007#16 .four 0x20080008#32) ∧
    (0x0007#16).toNat / 4 = 1 ∧ decode 0x20080008#32 = .ok (.setdim 8 8) ∧
    decode (encode (.setdim 8 8)) = .ok (.setdim 8 8) := by decide

theorem witness_ResetCycleGivesResetValues :
    resetCycle.rstN = false ∧ resetCycle.transaction = some (.read 0x0008 .four) ∧
    (cmdCycle 0x20080008#32).rstN = true ∧
    (cmdCycle 0x20080008#32).transaction = some (.write 0x0004 .four 0x20080008#32) := by decide

theorem witness_NothingPresentedHoldsTheState :
    idleBus.rstN = true ∧ idleBus.sel = false ∧ loading1.pending = [] := by decide

theorem witness_NopHasNoEffect :
    (0x00000001#32).toNat / 2 ^ 28 = 0 ∧ (0x00000001#32).toNat % 2 ^ 28 ≠ 0 ∧ loading1.state ≠ .error ∧ error5.state = .error := by
  decide

theorem witness_ClearAbandonsTheJob :
    (0x10000001#32).toNat / 2 ^ 28 = 1 ∧ (0x10000001#32).toNat % 2 ^ 28 ≠ 0 ∧ loading1.state ≠ .error ∧ error5.state = .error := by
  decide

/-- The bounds of a legal dimension, and values on the other side of each. -/
theorem witness_SetdimOpensAJobOrReportsTheError :
    State.reset.state = .idle ∧ legalDim 8 ∧ legalDim 256 ∧ ¬ (legalDim 8 ∧ legalDim 264) ∧ ¬ (legalDim 0 ∧ legalDim 8) ∧
    loading0.state = .loading ∧ loaded1.state = .loaded ∧ done4.state = .done ∧ error5.state = .error :=
  ⟨rfl, ⟨1, by decide⟩, ⟨32, by decide⟩,
    fun ⟨_, k, h1, h2, h3⟩ => absurd (show 264 = 8 * k from h3) (by omega),
    fun ⟨⟨k, h1, h2, h3⟩, _⟩ => absurd (show 0 = 8 * k from h3) (by omega), rfl, rfl, rfl, rfl⟩

theorem witness_SetupAndEncodeLeaveEveryCell :
    exec .nop done4 = .next done4 ∧ exec .clear done4 = .next (clearJob done4) ∧ exec .encode done4 = .next done4 ∧
    exec (.setdim 8 8) idleUsed = .next (openJob 8 8 idleUsed) := ⟨rfl, rfl, rfl, rfl⟩

theorem witness_LookupFindsTheUniqueEntry :
    loading4.Inv ∧ (3#2).toNat < loading4.palN.toNat ∧ loading4.palEntry 3 = 0xFFFFFF ∧
    (∀ i : PalIndex, i.toNat < loading1.palN.toNat → loading1.palEntry i ≠ 0x000000) := ⟨loading4_inv, by decide⟩

/-- The first entry in mid-image, and the last pixel of the image. -/
theorem witness_PixelOfAKnownColourReusesItsIndex :
    (loading1.Inv ∧ loading1.state = .loading ∧ (0#2).toNat < loading1.palN.toNat ∧ loading1.palEntry 0 = 0xFFFFFF) ∧
    (loading63.Inv ∧ loading63.state = .loading ∧ (0#2).toNat < loading63.palN.toNat ∧ loading63.palEntry 0 = 0xFFFFFF) ∧
    loading63.pixcount.toNat + 1 = loading63.w.toNat * loading63.h.toNat :=
  ⟨⟨loading1_inv, by decide⟩, ⟨loading63_inv, by decide⟩, by decide⟩

theorem witness_PixelOfANewColourTakesTheNextIndex :
    loading1.Inv ∧ loading1.state = .loading ∧ loading1.palN.toNat < 4 ∧
    (∀ i : PalIndex, i.toNat < loading1.palN.toNat → loading1.palEntry i ≠ 0xFFFFFE) := ⟨loading1_inv, by decide⟩

theorem witness_FifthColourRecordsPixelAndColour :
    loading4.Inv ∧ loading4.state = .loading ∧ loading4.palN.toNat = 4 ∧ (∀ i : PalIndex, loading4.palEntry i ≠ 0x123456) :=
  ⟨loading4_inv, by decide⟩

theorem witness_PixelOutsideLoadingRaisesSequence :
    State.reset.state = .idle ∧ loaded1.state = .loaded ∧ done4.state = .done ∧ error5.state = .error := by decide

theorem witness_FirstPixelTakesIndexZero : loading0.Inv ∧ loading0.state = .loading ∧ loading0.pixcount = 0 :=
  ⟨loading0_inv, by decide⟩

/-- A cursor in mid-row, at the end of a row, and at the last pixel. -/
theorem witness_CursorMovesInRowMajorOrder :
    (loading1.Inv ∧ loading1.state = .loading ∧ loading1.curX + 1 < loading1.w.toNat ∧
      (after (exec (.pixel 0xFFFFFF) loading1)).state = .loading) ∧
    ({ loading1 with pixcount := 7 }.curX + 1 = loading1.w.toNat) ∧
    (loading63.Inv ∧ loading63.curX + 1 = loading63.w.toNat ∧ loading63.curY + 1 = loading63.h.toNat) :=
  ⟨⟨loading1_inv, by decide⟩, by decide, ⟨loading63_inv, by decide⟩⟩

theorem witness_ValidPaletteEntriesStayUntilClearOrReset :
    { loading1 with pending := [cmdCycle 0x30FFFFFE#32] }.Inv ∧
    (∃ t, step { loading1 with pending := [cmdCycle 0x30FFFFFE#32] } = .next t) ∧ (0#2).toNat < loading1.palN.toNat ∧
    commandOf (cmdCycle 0x10000000#32) = some 0x10000000#32 :=
  ⟨inv_of_checks _ (by decide) fun _ => cells_of_all _ rfl (by decide) (by decide), ⟨_, rfl⟩, by decide, by decide⟩

/-- PIXEL in LOADING changes the cell at the cursor, whatever that cell held: here it held 2. -/
theorem witness_OnlyThePixelAtTheCursorWritesItsCell :
    let s := { loading1 with idx := [(0, 0), (1, 2)], pending := [cmdCycle 0x30FFFFFF#32] }
    step s = .next (after (step s)) ∧ (after (step s)).cell 0 1 ≠ s.cell 0 1 := ⟨rfl, by decide⟩

theorem witness_DeliveredColoursGiveTheFirstSeenPalette :
    loading0.Inv ∧ loading0.state = .loading ∧ loading0.pixcount = 0 ∧
    [7#24, 9#24, 7#24].length ≤ loading0.w.toNat * loading0.h.toNat ∧ firstSeen [7#24, 9#24, 7#24] = [7#24, 9#24] ∧
    (firstSeen [7#24, 9#24, 7#24]).length ≤ 4 := ⟨loading0_inv, by decide⟩

theorem witness_EncodeMakesTheTileSetReadable :
    loaded1.state = .loaded ∧ done4.state = .done ∧ State.reset.state = .idle ∧ loading1.state = .loading ∧ error5.state = .error ∧
    done4.w = 8 ∧ done4.h = 8 ∧ 16 ≤ 16 := by decide

/-- The last bit of the last row, and the first byte beyond the TileSet. -/
theorem witness_TileSetBytesPackTheTilesInOrder :
    loaded1.state ≠ .done ∧ done4.state = .done ∧ 0 < (done4.w.toNat / 8) * (done4.h.toNat / 8) ∧ 7 < 8 ∧
    16 * ((done4.w.toNat / 8) * (done4.h.toNat / 8)) ≤ 16 := by decide

theorem witness_PackingIsInvertible :
    done4.Inv ∧ done4.state = .done ∧ 7 < done4.w.toNat ∧ 7 < done4.h.toNat ∧ 0 < (done4.w.toNat / 8) * (done4.h.toNat / 8) ∧ 15 < 16 :=
  ⟨done4_inv, by decide⟩

theorem witness_PackingIsInvertible_zeroTile :
    (doneWith fun _ _ => 0).Inv ∧ (doneWith fun _ _ => 0).state = .done ∧
    ∀ r, r < 8 → ∀ j, j < 8 → (doneWith fun _ _ => 0).cell r j = 0 :=
  ⟨inv_of_checks _ (by decide) fun _ => cells_of_all _ rfl (by decide) (by decide), by decide⟩

theorem witness_TileSetIsFrozenWhileDone :
    done4.state = .done ∧ step { done4 with pending := [cmdCycle 0x40000000#32] } = .next { done4 with pending := [] } ∧
    (∃ c, Instr.pixel 5 = .pixel c) ∧ (∃ w h, Instr.setdim 8 16 = .setdim w h) :=
  ⟨rfl, rfl, ⟨5, rfl⟩, ⟨8, 16, rfl⟩⟩

theorem witness_RegisterFieldsHoldTheirElements : loading4.Inv ∧ done4.Inv ∧ error5.Inv ∧ idleUsed.Inv :=
  ⟨loading4_inv, done4_inv, error5_inv, idleUsed_inv⟩

/-- The last byte of the register region. -/
theorem witness_RegisterReadsAreLittleEndian : AccessSize.one ≠ .reserved ∧ (0x002F#16).toNat < 0x30 := by decide

/-- Both ends of the window. -/
theorem witness_WindowReadsAreLittleEndian :
    AccessSize.four ≠ .reserved ∧ 0x4000 ≤ (0x4000#16).toNat ∧ (0x7FFF#16).toNat ≤ 0x7FFF ∧ 3 < AccessSize.four.bytes := by decide

theorem witness_AccessesAreAlignedDown : AccessSize.two ≠ .reserved := by decide

theorem witness_OnlyAFourByteWriteToCmdActs :
    (0x0004#16).toNat / 4 = 1 ∧ (0x0007#16).toNat / 4 = 1 ∧ ¬ (AccessSize.two = .four ∧ (0x0004#16).toNat / 4 = 1) ∧
    ¬ (AccessSize.four = .four ∧ (0x0008#16).toNat / 4 = 1) := by decide

/-- The bounds of both reserved ranges. -/
theorem witness_ReservedAccessesReadZeroAndWriteNothing :
    (0x30 ≤ (0x0030#16).toNat ∧ (0x0030#16).toNat ≤ 0x3FFF) ∧ (0x30 ≤ (0x3FFF#16).toNat ∧ (0x3FFF#16).toNat ≤ 0x3FFF) ∧
    0x8000 ≤ (0x8000#16).toNat ∧ 0x8000 ≤ (0xFFFF#16).toNat := by decide

/-- Two reads of the same place whose write-data pins differ, and which show data that is not 0; and a read of the reserved size. -/
theorem witness_ReadsHaveNoSideEffect :
    let c := { readCycle 0x0008 with wdata := 0x10000000 }
    let s := { done4 with pending := c :: [readCycle 0x0008] }
    s.pending = c :: [readCycle 0x0008] ∧ c.rstN = true ∧ c.transaction = some (.read 0x0008 .four) ∧
    (readCycle 0x0008).rstN = true ∧ (readCycle 0x0008).transaction = some (.read 0x0008 .four) ∧
    (s.busRead 0x0008 .four).toNat % 2 ^ 4 = 3 ∧
    { c with size := 3 }.transaction = some (.read 0x0008 .reserved) := by decide

theorem witness_DimChangesOnlyBySetdimClearOrReset :
    let s := { State.reset with pending := [cmdCycle 0x20080010#32] }
    step s = .next (after (step s)) ∧ (after (step s)).w ≠ s.w := ⟨rfl, by decide⟩

/-- One witness for each of the four codes. -/
theorem witness_ErrorEntryIsPrecise :
    performCommand 0x20080108#32 State.reset = .next { State.reset with state := .error, err := .dimension } ∧
    performCommand 0x40000000#32 loading1 = .next { loading1 with state := .error, err := .sequence } ∧
    performCommand 0x50000000#32 loading1 = .next { loading1 with state := .error, err := .illegalCommand } ∧
    performCommand 0x30123456#32 loading4 = .next error5 := ⟨rfl, rfl, rfl, rfl⟩

theorem witness_FirstErrorInThePriorityOrderIsReported :
    (error5.state = .error ∧ (0x20080008#32 : Word) ≠ 0x10000000#32) ∧
    (State.reset.state = .idle ∧ decode 0x3F000000#32 = .illegal .reservedBits) ∧
    (decode 0x20080008#32 = .ok (.setdim 8 8) ∧ loading4.state ≠ .idle) ∧
    (decode 0x30123456#32 = .ok (.pixel 0x123456) ∧ loaded1.state ≠ .error ∧ loaded1.state ≠ .loading) ∧
    (decode 0x40000000#32 = .ok .encode ∧ loading4.state ≠ .loaded ∧ loading4.state ≠ .done) ∧
    (decode 0x20080108#32 = .ok (.setdim 264 8) ∧ ¬ (legalDim 264 ∧ legalDim 8)) ∧
    (loading4.state = .loading ∧ loading4.palN.toNat = 4 ∧ ∀ i : PalIndex, loading4.palEntry i ≠ 0x123456) :=
  ⟨by decide, by decide, by decide, by decide, by decide,
    ⟨by decide, fun ⟨⟨k, h1, h2, h3⟩, _⟩ => absurd (show 264 = 8 * k from h3) (by omega)⟩, by decide⟩

theorem witness_ErrorIgnoresEverythingButClear :
    error5.state = .error ∧ (cmdCycle 0x10000001#32).rstN = true ∧ commandOf (cmdCycle 0x10000001#32) ≠ some 0x10000000#32 ∧
    (readCycle 0x7FFC).rstN = true ∧ commandOf (readCycle 0x7FFC) ≠ some 0x10000000#32 ∧
    (readCycle 0x7FFC).transaction = some (.read 0x7FFC .four) := by decide

theorem witness_OnlyClearAndResetLeaveError :
    let s := { error5 with pending := [cmdCycle 0x10000000#32] }
    s.state = .error ∧ step s = .next (after (step s)) ∧ (after (step s)).state ≠ .error ∧ resetCycle.rstN = false :=
  ⟨rfl, rfl, by decide, rfl⟩

theorem witness_StateMovesOnlyAsTheTableAllows :
    (loading63.Inv ∧ exec (.pixel 0xFFFFFF) loading63 = .next (after (exec (.pixel 0xFFFFFF) loading63)) ∧
      (after (exec (.pixel 0xFFFFFF) loading63)).state = .loaded) ∧
    (error5.Inv ∧ exec .encode error5 = .next error5) ∧ performCommand 0x50000000#32 error5 = .next error5 :=
  ⟨⟨loading63_inv, rfl, by decide⟩, ⟨error5_inv, rfl⟩, rfl⟩

theorem witness_EveryStepKeepsTheInvariant :
    { loading1 with pending := [cmdCycle 0x30FFFFFE#32] }.Inv ∧
    ∃ t, step { loading1 with pending := [cmdCycle 0x30FFFFFE#32] } = .next t ∧ t.pixcount = 2 :=
  ⟨inv_of_checks _ (by decide) fun _ => cells_of_all _ rfl (by decide) (by decide), ⟨_, rfl, by decide⟩⟩

/-- `loading1`, and the same state with a cell of an earlier job outside the received pixels. -/
theorem witness_UnspecifiedCellsAreNeverSeen :
    let s' := { loading1 with idx := [(0, 0), (9, 3)], resetCount := 4 }
    loading1.Inv ∧ s'.Inv ∧ loading1.Alike s' ∧ loading1.pending = s'.pending ∧ done4.Inv ∧ done4.state = .done ∧ 7 < done4.h.toNat := by
  refine ⟨loading1_inv, inv_of_checks _ (by decide) fun _ => cells_of_all _ rfl (by decide) (by decide),
    ⟨rfl, rfl, rfl, rfl, rfl, rfl, rfl, rfl, rfl, rfl, fun _ y x hr => ?_⟩, rfl, done4_inv, rfl, by decide⟩
  obtain ⟨hx, hp⟩ := hr
  have hy0 : y = 0 := by change y * 8 + x < 1 at hp; omega
  have hx0 : x = 0 := by change y * 8 + x < 1 at hp; omega
  subst hy0 hx0
  decide

theorem witness_ClearCannotBeToldFromReset : done4.Inv ∧ exec .clear done4 = .next (clearJob done4) := ⟨done4_inv, rfl⟩

theorem witness_SameCommandsAfterClearGiveTheSameResult : done4.Inv ∧ idleUsed.Inv ∧
    (afterCommands (encode .clear :: [0x20080008#32]) done4).state = .loading := ⟨done4_inv, idleUsed_inv, by decide⟩

end Sys2Proof.Tests
end

section
/-! PROOFS. The family of 10_state.md: the pixel cursor (R22) and the transition table (R24). -/

namespace Sys2Proof.Machine

/-! ### The dispatch and the commands in ERROR -/

@[simp] theorem exec_nop (s : State) : exec .nop s = .next s := rfl
@[simp] theorem exec_clear (s : State) : exec .clear s = .next (clearJob s) := rfl
@[simp] theorem exec_setdim (w h : Dim) (s : State) : exec (.setdim w h) s = execSetdim w h s := rfl
@[simp] theorem exec_pixel (c : Color) (s : State) : exec (.pixel c) s = execPixel c s := rfl
@[simp] theorem exec_encode (s : State) : exec .encode s = execEncode s := rfl

theorem unlessError_of_error {s : State} (hs : s.state = .error) (effect : State) : unlessError s effect = s := if_pos hs

theorem unlessError_of_ne_error {s : State} (hs : s.state ≠ .error) (effect : State) : unlessError s effect = effect :=
  if_neg hs

/-- In ERROR every command but CLEAR is ignored (R163). -/
theorem exec_of_error {s : State} (hs : s.state = .error) {i : Instr} (hi : i ≠ .clear) : exec i s = .next s := by
  cases i with
  | nop => exact exec_nop s
  | clear => exact absurd rfl hi
  | setdim w h => rw [exec_setdim, execSetdim, unlessError_of_error hs]
  | pixel c => rw [exec_pixel, execPixel, unlessError_of_error hs]
  | encode => rw [exec_encode, execEncode, unlessError_of_error hs]

/-! ### A pixel delivered in LOADING -/

theorem exec_pixel_of_loading {s : State} (hl : s.state = .loading) (c : Color) :
    exec (.pixel c) s = .next (deliverPixel c s) := by
  simp [execPixel, unlessError, hl]

/-- A delivered pixel raises TOO_MANY_COLORS, or is accepted: it is counted, and the last one completes the image (R121). -/
theorem deliverPixel_raises_or_counts (c : Color) (s : State) :
    ((deliverPixel c s).state = .error ∧ (deliverPixel c s).err = .tooManyColors) ∨
    ((deliverPixel c s).state = (if (s.pixcount + 1).toNat = s.npix then .loaded else s.state) ∧
      (deliverPixel c s).err = s.err ∧ (deliverPixel c s).w = s.w ∧ (deliverPixel c s).pixcount = s.pixcount + 1) := by
  obtain ⟨i, -, heq⟩ | ⟨-, -, heq⟩ | ⟨-, -, heq⟩ := deliverPixel_cases c s
  · exact .inr (by simp [heq])
  · exact .inl (by simp [heq, JobError.errCode])
  · exact .inr (by simp [heq, State.npix])

/-! ### The cursor (R22) -/

/-- The cursor is the only position of a column of the image whose row-major number is PIXCOUNT. -/
theorem cursor_eq_of_position {s : State} {y x : Nat} (hx : x < s.w.toNat)
    (hp : s.pixcount.toNat = y * s.w.toNat + x) : s.curX = x ∧ s.curY = y := by
  have hsame : s.curY * s.w.toNat + s.curX = y * s.w.toNat + x := by
    rw [← hp, Nat.mul_comm]
    exact Nat.div_add_mod _ _
  obtain ⟨hY, hX⟩ := position_unique (Nat.mod_lt _ (by omega)) hx hsame
  exact ⟨hX, hY⟩

theorem cursor_eq_zero_of_pixcount_zero {s : State} (hp : s.pixcount = 0) : s.curX = 0 ∧ s.curY = 0 := by
  simp [State.curX, State.curY, hp]

/-- One more pixel moves the cursor to the row-major successor. -/
theorem cursor_succ {s t : State} (hinv : s.Inv) (hl : s.state = .loading) (hw : t.w = s.w)
    (hp : t.pixcount = s.pixcount + 1) :
    (s.curX + 1 < s.w.toNat → t.curX = s.curX + 1 ∧ t.curY = s.curY) ∧
    (s.curX + 1 = s.w.toNat → t.curX = 0 ∧ t.curY = s.curY + 1) := by
  obtain ⟨-, -, -, -, hpos⟩ := cursor_bounds s hinv hl
  have hcount : t.pixcount.toNat = s.curY * t.w.toNat + s.curX + 1 := by
    rw [hp, pixcount_succ s hinv hl, hw, hpos]
  rw [← hw]
  constructor
  · intro hcol
    exact cursor_eq_of_position hcol hcount
  · intro hlast
    refine cursor_eq_of_position (by omega) ?_
    rw [hcount, Nat.add_mul]
    omega

/-- The pixel at (W-1, H-1) is the last one of the image. -/
theorem pixcount_succ_of_last {s : State} (hinv : s.Inv) (hl : s.state = .loading)
    (hx : s.curX + 1 = s.w.toNat) (hy : s.curY + 1 = s.h.toNat) : (s.pixcount + 1).toNat = s.npix := by
  obtain ⟨-, -, -, -, hpos⟩ := cursor_bounds s hinv hl
  calc (s.pixcount + 1).toNat
      = s.curY * s.w.toNat + s.curX + 1 := by rw [pixcount_succ s hinv hl, hpos]
    _ = (s.curY + 1) * s.w.toNat := by rw [Nat.add_mul]; omega
    _ = s.npix := by rw [hy, Nat.mul_comm, State.npix]

/-- Settles O24: an accepted pixel counts one more, and the cursor is the row-major position of the count. -/
theorem cursorMovesInRowMajorOrder : Obligations.CursorMovesInRowMajorOrder := by
  intro s hinv hl
  obtain ⟨hX, hY, -⟩ := cursor_bounds s hinv hl
  refine ⟨rfl, rfl, hX, hY, cursor_eq_zero_of_pixcount_zero, ?_, ?_⟩
  · intro c t ht hload
    obtain rfl := Host.Outcome.next.inj ((exec_pixel_of_loading hl c).symm.trans ht)
    obtain ⟨herr, -⟩ | ⟨-, -, hw, hp⟩ := deliverPixel_raises_or_counts c s
    · simp [herr] at hload
    · exact cursor_succ hinv hl hw hp
  · intro c t ht hx hy
    obtain rfl := Host.Outcome.next.inj ((exec_pixel_of_loading hl c).symm.trans ht)
    obtain ⟨herr, -⟩ | ⟨hstate, -⟩ := deliverPixel_raises_or_counts c s
    · simp [herr]
    · rw [hstate, if_pos (pixcount_succ_of_last hinv hl hx hy)]
      decide

/-! ### The transition table (R24) -/

theorem clear_allowed (j : JobState) : (JobState.idle, ErrCode.noError) ∈ allowedAfter j .clear := by
  cases j <;> decide

theorem nop_allowed {j : JobState} (hj : j ≠ .error) : (j, ErrCode.noError) ∈ allowedAfter j .nop := by
  cases j <;> simp_all [allowedAfter]

/-- SETDIM from IDLE opens the job or raises DIMENSION, and from the other states raises SEQUENCE. -/
theorem execSetdim_allowed {s t : State} {w h : Dim} (hs : s.state ≠ .error) (he : s.err = .noError)
    (ht : execSetdim w h s = .next t) : (t.state, t.err) ∈ allowedAfter s.state .setdim := by
  obtain ⟨herr, -⟩ | ⟨-, hidle, heq⟩ | ⟨hidle, -, heq⟩ | ⟨hidle, -, -, heq⟩ := execSetdim_cases w h s
  · exact absurd herr hs
  all_goals obtain rfl := Host.Outcome.next.inj (heq.symm.trans ht)
  · cases hj : s.state <;> simp_all [allowedAfter, JobError.errCode]
  · simp [hidle, allowedAfter, JobError.errCode]
  · simp [hidle, he, allowedAfter]

/-- PIXEL in LOADING is accepted or raises TOO_MANY_COLORS, and in the other states raises SEQUENCE. -/
theorem execPixel_allowed {s t : State} {c : Color} (hs : s.state ≠ .error) (he : s.err = .noError)
    (ht : execPixel c s = .next t) : (t.state, t.err) ∈ allowedAfter s.state .pixel := by
  obtain ⟨herr, -⟩ | ⟨-, hload, heq⟩ | ⟨hload, heq⟩ := execPixel_cases c s
  · exact absurd herr hs
  all_goals obtain rfl := Host.Outcome.next.inj (heq.symm.trans ht)
  · cases hj : s.state <;> simp_all [allowedAfter, JobError.errCode]
  · obtain ⟨hstate, hcode⟩ | ⟨hstate, hcode, -⟩ := deliverPixel_raises_or_counts c s
    · simp [hload, hstate, hcode, allowedAfter]
    · rw [hstate, hcode, hload, he]
      split <;> decide

/-- ENCODE in LOADED and DONE gives DONE, and in IDLE and LOADING raises SEQUENCE. -/
theorem execEncode_allowed {s t : State} (hs : s.state ≠ .error) (he : s.err = .noError)
    (ht : execEncode s = .next t) : (t.state, t.err) ∈ allowedAfter s.state .encode := by
  obtain ⟨herr, -⟩ | ⟨hj, heq⟩ | ⟨hj, heq⟩ | ⟨hj, heq⟩ := execEncode_cases s
  · exact absurd herr hs
  all_goals obtain rfl := Host.Outcome.next.inj (heq.symm.trans ht)
  · simp [hj, he, allowedAfter]
  · simp [hj, he, allowedAfter]
  · obtain hj | hj := hj <;> simp [hj, allowedAfter, JobError.errCode]

/-- Outside ERROR, where ERR is NONE, every command answers one of the pairs of its cell of the table. -/
theorem exec_allowed {i : Instr} {s t : State} (hs : s.state ≠ .error) (he : s.err = .noError)
    (ht : exec i s = .next t) : (t.state, t.err) ∈ allowedAfter s.state (mnemonicOf i) := by
  cases i with
  | nop =>
    obtain rfl := Host.Outcome.next.inj ((exec_nop s).symm.trans ht)
    rw [he]
    exact nop_allowed hs
  | clear =>
    obtain rfl := Host.Outcome.next.inj ((exec_clear s).symm.trans ht)
    exact clear_allowed s.state
  | setdim w h => exact execSetdim_allowed hs he (exec_setdim .. ▸ ht)
  | pixel c => exact execPixel_allowed hs he (exec_pixel .. ▸ ht)
  | encode => exact execEncode_allowed hs he (exec_encode .. ▸ ht)

/-- Settles O44: the invariant gives ERR NONE outside ERROR, and each command keeps to its column of the table. -/
theorem stateMovesOnlyAsTheTableAllows : Obligations.StateMovesOnlyAsTheTableAllows := by
  refine ⟨fun i s t hinv ht => ⟨fun hs hi => ?_, fun hor => ?_⟩, fun cmd s t why hd ht => ?_⟩
  · exact (Host.Outcome.next.inj ((exec_of_error hs hi).symm.trans ht)).symm
  · by_cases hs : s.state = .error
    · obtain rfl : i = .clear := hor.resolve_left (not_not_intro hs)
      obtain rfl := Host.Outcome.next.inj ((exec_clear s).symm.trans ht)
      exact clear_allowed s.state
    · exact exec_allowed hs (hinv.err_iff.mpr hs) ht
  · obtain rfl := Host.Outcome.next.inj ((performCommand_illegal cmd why s hd).symm.trans ht)
    constructor <;> intro hs
    · exact unlessError_of_error hs _
    · simp [illegalWord, unlessError_of_ne_error hs, JobError.errCode]

end Sys2Proof.Machine
end

section
/-! PROOFS. The family of 20_memory.md: alignment (R53), the reads of the register region (R54) and of the TileSet window (R56), the
one write that acts (R55), and reserved accesses (R57). -/

namespace Sys2Proof.Machine

/-! ### The effective address (R53) -/

theorem AccessSize.bytes_le (z : AccessSize) : z.bytes ≤ 4 := by
  cases z <;> decide

/-- A non-reserved size is a power of two, so its mask `size - 1` keeps the address modulo the size. -/
theorem and_sizeMask_toNat (addr : Addr) {z : AccessSize} (hz : z ≠ .reserved) :
    (addr &&& BitVec.ofNat 16 (z.bytes - 1)).toNat = addr.toNat % z.bytes := by
  rw [BitVec.toNat_and]
  cases z with
  | one => exact Nat.and_two_pow_sub_one_eq_mod _ 0
  | two => exact Nat.and_two_pow_sub_one_eq_mod _ 1
  | four => exact Nat.and_two_pow_sub_one_eq_mod _ 2
  | reserved => exact absurd rfl hz

/-- The bits under a mask and the bits outside it make the number. -/
theorem toNat_and_not_add_toNat_and {n : Nat} (v mask : BitVec n) :
    (v &&& ~~~mask).toNat + (v &&& mask).toNat = v.toNat := by
  have hdisjoint : (v &&& ~~~mask) &&& (v &&& mask) = 0#n := by
    ext i
    cases hi : v[i] <;> cases hm : mask[i] <;> simp [hi, hm]
  have hunion : (v &&& ~~~mask) ||| (v &&& mask) = v := by
    ext i
    cases hi : v[i] <;> cases hm : mask[i] <;> simp [hi, hm]
  rw [← BitVec.toNat_add_of_and_eq_zero hdisjoint, BitVec.add_eq_or_of_and_eq_zero _ _ hdisjoint, hunion]

theorem effectiveAddress_toNat (addr : Addr) {z : AccessSize} (hz : z ≠ .reserved) :
    (effectiveAddress addr z).toNat = addr.toNat - addr.toNat % z.bytes := by
  have hsplit := toNat_and_not_add_toNat_and addr (BitVec.ofNat 16 (z.bytes - 1))
  rw [and_sizeMask_toNat addr hz] at hsplit
  exact Nat.eq_sub_of_add_eq hsplit

@[simp] theorem effectiveAddress_idem (addr : Addr) (z : AccessSize) :
    effectiveAddress (effectiveAddress addr z) z = effectiveAddress addr z := by
  simp only [effectiveAddress, BitVec.and_assoc, BitVec.and_self]

@[simp] theorem effectiveAddress_reserved (addr : Addr) : effectiveAddress addr .reserved = addr :=
  BitVec.and_allOnes

/-- Alignment to at most 4 bytes stays inside the 32-bit word of the address. -/
@[simp] theorem effectiveAddress_word (addr : Addr) (z : AccessSize) :
    (effectiveAddress addr z).toNat / 4 = addr.toNat / 4 := by
  cases z with
  | reserved => rw [effectiveAddress_reserved]
  | one | two | four =>
    rw [effectiveAddress_toNat addr (by decide)]
    simp only [AccessSize.bytes]
    omega

theorem effectiveAddress_four_eq_cmdAddr_iff (addr : Addr) :
    effectiveAddress addr .four = cmdAddr ↔ addr.toNat / 4 = 1 := by
  rw [← BitVec.toNat_inj, effectiveAddress_toNat addr (by decide)]
  change addr.toNat - addr.toNat % 4 = 4 ↔ addr.toNat / 4 = 1
  omega

/-! ### The regions (R52), whose bounds are word boundaries -/

theorem regionOf_registers {ea : Addr} (h : ea.toNat / 4 < 12) : regionOf ea = .registers :=
  if_pos (show ea.toNat < 0x30 by omega)

theorem regionOf_tileSet {ea : Addr} (hlo : 0x1000 ≤ ea.toNat / 4) (hhi : ea.toNat / 4 < 0x2000) :
    regionOf ea = .tileSet := by
  rw [regionOf, if_neg (by simp only [Config.registerBytes]; omega),
    if_pos (by simp only [Config.windowBase, Config.tilesetBytesMax]; omega)]

theorem regionOf_reserved {ea : Addr} (h : (12 ≤ ea.toNat / 4 ∧ ea.toNat / 4 < 0x1000) ∨ 0x2000 ≤ ea.toNat / 4) :
    regionOf ea = .reserved := by
  rw [regionOf, if_neg (by simp only [Config.registerBytes]; omega),
    if_neg (by simp only [Config.windowBase, Config.tilesetBytesMax]; omega)]

/-! ### What a read returns in each region -/

@[simp] theorem State.busRead_effectiveAddress (s : State) (addr : Addr) (z : AccessSize) :
    s.busRead (effectiveAddress addr z) z = s.busRead addr z := by
  simp only [State.busRead, effectiveAddress_idem]

@[simp] theorem State.busRead_reservedSize (s : State) (addr : Addr) : s.busRead addr .reserved = 0 := rfl

theorem State.busRead_registers (s : State) {addr : Addr} {z : AccessSize} (hz : z ≠ .reserved)
    (h : addr.toNat / 4 < 12) :
    s.busRead addr z = s.readRegisterBytes (effectiveAddress addr z) z.bytes := by
  have hr : regionOf (effectiveAddress addr z) = .registers := regionOf_registers (by simpa using h)
  simp only [State.busRead, if_neg hz, hr]

theorem State.busRead_tileSet (s : State) {addr : Addr} {z : AccessSize} (hz : z ≠ .reserved)
    (hlo : 0x1000 ≤ addr.toNat / 4) (hhi : addr.toNat / 4 < 0x2000) :
    s.busRead addr z = s.readWindowBytes ((effectiveAddress addr z).toNat - Config.windowBase) z.bytes := by
  have hr : regionOf (effectiveAddress addr z) = .tileSet := regionOf_tileSet (by simpa using hlo) (by simpa using hhi)
  simp only [State.busRead, if_neg hz, hr]

theorem State.busRead_reserved (s : State) {addr : Addr} {z : AccessSize}
    (h : (12 ≤ addr.toNat / 4 ∧ addr.toNat / 4 < 0x1000) ∨ 0x2000 ≤ addr.toNat / 4 ∨ z = .reserved) :
    s.busRead addr z = 0 := by
  by_cases hz : z = .reserved
  · rw [hz, State.busRead_reservedSize]
  · have hr : regionOf (effectiveAddress addr z) = .reserved :=
      regionOf_reserved (by simpa only [effectiveAddress_word, hz, or_false] using h)
    simp only [State.busRead, if_neg hz, hr]

/-! ### The two kinds of transaction, and the one write that acts (R55) -/

theorem performTransaction_read (addr : Addr) (z : AccessSize) (s : State) :
    performTransaction (.read addr z) s = .next { s with rdata := some (s.busRead addr z) } := rfl

theorem performTransaction_write_cmd {addr : Addr} {z : AccessSize} (hz : z = .four) (ha : addr.toNat / 4 = 1)
    (d : Word) (s : State) : performTransaction (.write addr z d) s = performCommand d s := by
  subst hz
  exact if_pos ⟨rfl, (effectiveAddress_four_eq_cmdAddr_iff addr).mpr ha⟩

theorem performTransaction_write_ignored {addr : Addr} {z : AccessSize} (h : ¬ (z = .four ∧ addr.toNat / 4 = 1))
    (d : Word) (s : State) : performTransaction (.write addr z d) s = .next s := by
  refine if_neg fun hcmd => h ?_
  obtain ⟨rfl, ha⟩ := hcmd
  exact ⟨rfl, (effectiveAddress_four_eq_cmdAddr_iff addr).mp ha⟩

theorem performTransaction_write_effectiveAddress (addr : Addr) (z : AccessSize) (d : Word) (s : State) :
    performTransaction (.write (effectiveAddress addr z) z d) s = performTransaction (.write addr z d) s := by
  simp only [performTransaction, busWrite, effectiveAddress_idem]

/-! ### No transaction traps -/

theorem exec_completes (i : Instr) (s : State) : ∃ t, exec i s = .next t := by
  cases i <;> exact ⟨_, rfl⟩

theorem performCommand_completes (cmd : Word) (s : State) : ∃ t, performCommand cmd s = .next t := by
  obtain ⟨i, -, heq⟩ | ⟨why, -, heq⟩ := performCommand_cases cmd s
  · exact heq ▸ exec_completes i s
  · exact ⟨_, heq⟩

theorem performTransaction_completes (t : Transaction) (s : State) : ∃ s', performTransaction t s = .next s' := by
  obtain ⟨a, z, -, heq⟩ | ⟨a, d, -, -, heq⟩ | ⟨a, z, d, -, -, heq⟩ := performTransaction_cases t s
  · exact ⟨_, heq⟩
  · exact heq ▸ performCommand_completes d s
  · exact ⟨_, heq⟩

/-! ### The register region (R54): one register for each of the twelve words -/

theorem pal_offset_toNat (i : PalIndex) : (RegName.pal i).offset.toNat = 0x020 + 4 * i.toNat := by
  revert i
  decide

theorem registerAt_isSome {n : Nat} (h : n < 12) : ∃ r, registerAt n = some r := by
  interval_cases n <;> exact ⟨_, rfl⟩

theorem registerAt_offset (r : RegName) : registerAt (r.offset.toNat / 4) = some r := by
  cases r with
  | pal i => revert i; decide
  | _ => rfl

theorem offset_of_registerAt {n : Nat} {r : RegName} (h : registerAt n = some r) : r.offset.toNat = 4 * n := by
  unfold registerAt at h
  split at h <;> cases h <;> rfl

/-- No two registers share a word. -/
theorem eq_of_offset_of_registerAt {n : Nat} {r r' : RegName} (h : registerAt n = some r)
    (ho : r'.offset.toNat = 4 * n) : r' = r := by
  have hr' := registerAt_offset r'
  rw [ho, Nat.mul_div_cancel_left n (by decide), h] at hr'
  exact (Option.some.inj hr').symm

/-- The bytes a register read takes from its register, as a number. -/
theorem State.readRegisterBytes_toNat (s : State) {ea : Addr} {n : Nat} {r : RegName}
    (hr : registerAt (ea.toNat / 4) = some r) (hn : n ≤ 4) :
    (s.readRegisterBytes ea n).toNat = (s.readReg r).toNat / 2 ^ (8 * (ea.toNat % 4)) % 2 ^ (8 * n) := by
  simp only [State.readRegisterBytes, hr]
  rw [BitVec.toNat_setWidth_of_le (by omega), BitVec.extractLsb'_toNat, Nat.shiftRight_eq_div_pow]

/-! ### The TileSet window (R56): little-endian digits in base 256 -/

theorem State.readWindowBytes_toNat_lt (s : State) (a n : Nat) : (s.readWindowBytes a n).toNat < 256 ^ n := by
  induction n generalizing a with
  | zero => exact Nat.zero_lt_one
  | succ n ih =>
    have hfirst : ((s.tileSetByte a).setWidth 32).toNat < (2 ^ 8) ^ (n + 1) := by
      rw [BitVec.toNat_setWidth_of_le (by decide)]
      exact (s.tileSetByte a).isLt.trans_le (Nat.le_self_pow (by omega) _)
    have hrest : (s.readWindowBytes (a + 1) n <<< 8).toNat < (2 ^ 8) ^ (n + 1) := by
      rw [BitVec.toNat_shiftLeft, Nat.shiftLeft_eq, Nat.pow_succ]
      exact (Nat.mod_le _ _).trans_lt (Nat.mul_lt_mul_of_pos_right (ih (a + 1)) (by decide))
    rw [← Nat.pow_mul] at hfirst hrest
    rw [State.readWindowBytes, BitVec.toNat_or, show 256 = 2 ^ 8 from rfl, ← Nat.pow_mul]
    exact Nat.or_lt_two_pow hfirst hrest

/-- The first byte of a window read is its lowest digit; the rest is the read from the next byte on, which loses no bit to the
shift while at most 4 bytes are read. -/
theorem State.readWindowBytes_succ_toNat (s : State) (a : Nat) {n : Nat} (hn : n < 4) :
    (s.readWindowBytes a (n + 1)).toNat = (s.tileSetByte a).toNat + 256 * (s.readWindowBytes (a + 1) n).toNat := by
  have hrest : (s.readWindowBytes (a + 1) n).toNat < 256 ^ 3 :=
    (s.readWindowBytes_toNat_lt (a + 1) n).trans_le (Nat.pow_le_pow_right (by decide) (by omega))
  have hshift : (s.readWindowBytes (a + 1) n <<< 8).toNat = (s.readWindowBytes (a + 1) n).toNat <<< 8 := by
    rw [BitVec.toNat_shiftLeft, Nat.shiftLeft_eq, Nat.mod_eq_of_lt (by omega)]
  rw [State.readWindowBytes, BitVec.toNat_or, hshift, BitVec.toNat_setWidth_of_le (by decide), Nat.or_comm,
    ← Nat.shiftLeft_add_eq_or_of_lt (s.tileSetByte a).isLt, Nat.shiftLeft_eq, Nat.add_comm, Nat.mul_comm]

theorem State.readWindowBytes_byte (s : State) (a : Nat) {n m : Nat} (hn : n ≤ 4) (hm : m < n) :
    (s.readWindowBytes a n).toNat / 256 ^ m % 256 = (s.tileSetByte (a + m)).toNat := by
  induction n generalizing a m with
  | zero => omega
  | succ n ih =>
    have hb : (s.tileSetByte a).toNat < 256 := (s.tileSetByte a).isLt
    rw [s.readWindowBytes_succ_toNat a hn]
    cases m with
    | zero => rw [Nat.pow_zero, Nat.div_one, Nat.add_mul_mod_self_left, Nat.mod_eq_of_lt hb, Nat.add_zero]
    | succ m =>
      rw [Nat.pow_succ', ← Nat.div_div_eq_div_mul, Nat.add_mul_div_left _ _ (by decide), Nat.div_eq_of_lt hb, Nat.zero_add,
        ih (a + 1) (by omega) (by omega), Nat.add_right_comm, Nat.add_assoc]

/-! ### The statements -/

/-- Settles O35: alignment is idempotent, and reads and writes see the address through it only. -/
theorem accessesAreAlignedDown : Obligations.AccessesAreAlignedDown := by
  intro s addr z d hz
  refine ⟨effectiveAddress_toNat addr hz, ?_, (performTransaction_write_effectiveAddress addr z d s).symm,
    performTransaction_completes _ s, performTransaction_completes _ s⟩
  simp only [performTransaction_read, State.busRead_effectiveAddress]

/-- Settles O33: the word of the address names the register, and the read takes its bytes from the effective address on. -/
theorem registerReadsAreLittleEndian : Obligations.RegisterReadsAreLittleEndian := by
  refine ⟨fun s addr z hz ha => ?_, rfl, rfl, rfl, rfl, rfl, rfl, rfl, rfl, pal_offset_toNat⟩
  have hword : (effectiveAddress addr z).toNat / 4 < 12 := by rw [effectiveAddress_word]; omega
  rw [← effectiveAddress_toNat addr hz]
  intro ea
  obtain ⟨r, hr⟩ := registerAt_isSome hword
  have hbase : ea - ea % 4 = 4 * (ea / 4) := by omega
  refine ⟨r, hbase ▸ offset_of_registerAt hr, fun r' ho => eq_of_offset_of_registerAt hr (ho.trans hbase), _,
    performTransaction_read addr z s, ?_⟩
  rw [s.busRead_registers hz (by omega)]
  exact s.readRegisterBytes_toNat hr z.bytes_le

/-- Settles O34: a window read is the number whose base-256 digits are the TileSet bytes, and no window address is CMD. -/
theorem windowReadsAreLittleEndian : Obligations.WindowReadsAreLittleEndian := by
  intro s addr z hlo hhi
  refine ⟨fun hz => ⟨_, performTransaction_read addr z s, ?_⟩,
    fun d => performTransaction_write_ignored (fun hcmd => by omega) d s⟩
  rw [s.busRead_tileSet hz (by omega) (by omega), effectiveAddress_toNat addr hz]
  exact ⟨s.readWindowBytes_toNat_lt _ _, fun m hm => s.readWindowBytes_byte _ z.bytes_le hm⟩

/-- Settles O37: the reserved ranges are whole words, so alignment does not leave them, and none of them is CMD. -/
theorem reservedAccessesReadZeroAndWriteNothing : Obligations.ReservedAccessesReadZeroAndWriteNothing := by
  refine ⟨fun s addr z d h => ⟨?_, ?_⟩, by decide⟩
  · rw [performTransaction_read, s.busRead_reserved (h.imp (fun _ => by omega) (Or.imp_left fun _ => by omega))]
  · refine performTransaction_write_ignored ?_ d s
    rintro ⟨rfl, ha⟩
    obtain h | h | h := h
    · omega
    · omega
    · cases h

/-- Settles O36: the effective address is CMD exactly for the four addresses of its word. -/
theorem onlyAFourByteWriteToCmdActs : Obligations.OnlyAFourByteWriteToCmdActs := by
  intro s addr z d
  exact ⟨fun hz ha => performTransaction_write_cmd hz ha d s, fun h => performTransaction_write_ignored h d s⟩

end Sys2Proof.Machine
end

section
/-! PROOFS. The family of 30_encoding.md: the rows of the opcode table (R75) with their operands (R74), illegal words (R76), and the
pseudo-instruction PIXELS (R79). -/

namespace Sys2Proof

open Laws (rowOf)

/-! ### Words that agree on a field -/

/-- The mask of the field `[lo + n - 1 : lo]`. -/
def fieldMask (lo n : Nat) : Word := placeField lo (BitVec.allOnes n)

/-- What a field mask leaves of a word is the word's field, in its place. -/
theorem and_fieldMask (cmd : Word) (lo n : Nat) : cmd &&& fieldMask lo n = placeField lo (cmd.extractLsb' lo n) := by
  apply BitVec.eq_of_getLsbD_eq
  intro k hk
  rw [BitVec.getLsbD_and, fieldMask, placeField_bit lo _ k hk, placeField_bit lo _ k hk, BitVec.getLsbD_allOnes,
    BitVec.getLsbD_extractLsb']
  by_cases hlo : lo ≤ k
  · rw [Nat.add_sub_of_le hlo]
    simp [hlo, Bool.and_comm]
  · simp [hlo]

theorem extractLsb'_toNat_eq_div_mod (cmd : Word) (lo n : Nat) :
    (cmd.extractLsb' lo n).toNat = cmd.toNat / 2 ^ lo % 2 ^ n := by
  rw [BitVec.extractLsb'_toNat, Nat.shiftRight_eq_div_pow]

/-- Two words agree under a field mask exactly when their fields are the same number. -/
theorem and_fieldMask_eq_iff (cmd p : Word) {lo n : Nat} (h : lo + n ≤ 32) :
    cmd &&& fieldMask lo n = p &&& fieldMask lo n ↔ cmd.toNat / 2 ^ lo % 2 ^ n = p.toNat / 2 ^ lo % 2 ^ n := by
  rw [and_fieldMask, and_fieldMask, ← BitVec.toNat_inj, placeField_toNat _ _ h, placeField_toNat _ _ h,
    extractLsb'_toNat_eq_div_mod, extractLsb'_toNat_eq_div_mod, Nat.mul_left_inj (Nat.two_pow_pos lo).ne']

/-- Two words agree under a union of masks exactly when they agree under each. -/
theorem and_or_eq_iff (cmd p m₁ m₂ : Word) :
    cmd &&& (m₁ ||| m₂) = p &&& (m₁ ||| m₂) ↔ cmd &&& m₁ = p &&& m₁ ∧ cmd &&& m₂ = p &&& m₂ := by
  simp only [BitVec.eq_of_getLsbD_eq_iff, BitVec.getLsbD_and, BitVec.getLsbD_or, ← forall_and]
  refine forall_congr' fun k => ?_
  cases m₁.getLsbD k <;> cases m₂.getLsbD k <;> simp

/-! ### When a row selects a word (R75) -/

theorem OpcodeRow.selects_iff (r : OpcodeRow) (cmd : Word) : r.selects cmd = true ↔ cmd &&& r.mask = r.pattern :=
  beq_iff_eq

/-- A row selects the words that agree with its pattern under its mask, as no pattern has a bit outside its mask. -/
theorem OpcodeRow.selects_iff_agree {r : OpcodeRow} (hr : r ∈ opcodeTable) (cmd : Word) :
    r.selects cmd = true ↔ cmd &&& r.mask = r.pattern &&& r.mask := by
  have hpattern : ∀ r ∈ opcodeTable, r.pattern &&& r.mask = r.pattern := by decide
  rw [r.selects_iff, hpattern r hr]

theorem toNat_div_op (cmd : Word) : cmd.toNat / 2 ^ 28 % 2 ^ 4 = cmd.toNat / 2 ^ 28 :=
  Nat.mod_eq_of_lt (by have := cmd.isLt; omega)

/-- Every row fixes all of OP. -/
theorem OpcodeRow.op_eq_of_selects {r : OpcodeRow} (hr : r ∈ opcodeTable) {cmd : Word} (hs : r.selects cmd = true) :
    cmd.toNat / 2 ^ 28 = r.pattern.toNat / 2 ^ 28 := by
  have hmask : ∀ r ∈ opcodeTable, r.mask = fieldMask 28 4 ||| r.mask := by decide
  rw [selects_iff_agree hr, hmask r hr, and_or_eq_iff, and_fieldMask_eq_iff _ _ (by decide)] at hs
  rw [← toNat_div_op cmd, hs.1, toNat_div_op]

/-- No word is selected by two rows, as their opcodes differ. -/
theorem OpcodeRow.eq_of_selects {r₁ r₂ : OpcodeRow} (h₁ : r₁ ∈ opcodeTable) (h₂ : r₂ ∈ opcodeTable) {cmd : Word}
    (hs₁ : r₁.selects cmd = true) (hs₂ : r₂.selects cmd = true) : r₁ = r₂ := by
  have hdistinct : ∀ r₁ ∈ opcodeTable, ∀ r₂ ∈ opcodeTable,
      r₁.pattern.toNat / 2 ^ 28 = r₂.pattern.toNat / 2 ^ 28 → r₁ = r₂ := by decide
  exact hdistinct r₁ h₁ r₂ h₂ ((op_eq_of_selects h₁ hs₁).symm.trans (op_eq_of_selects h₂ hs₂))

/-! ### The decoder (R75), one equation for each of its two answers -/

theorem rowOf_mem_opcodeTable (i : Instr) : rowOf i ∈ opcodeTable := by
  cases i <;> simp [rowOf, opcodeTable]

/-- The operands assembled for a row make an instruction of that row. -/
theorem rowOf_assembleOperands {r : OpcodeRow} (hr : r ∈ opcodeTable) (cmd : Word) :
    rowOf (assembleOperands r.mnemonic cmd) = r := by
  simp only [opcodeTable, List.mem_cons, List.not_mem_nil, or_false] at hr
  obtain rfl | rfl | rfl | rfl | rfl := hr <;> rfl

theorem decode_eq_ok_of_selects {r : OpcodeRow} (hr : r ∈ opcodeTable) {cmd : Word} (hs : r.selects cmd = true) :
    decode cmd = .ok (assembleOperands r.mnemonic cmd) := by
  unfold decode
  cases hfind : opcodeTable.find? (fun r => r.selects cmd) with
  | none => exact absurd hs (List.find?_eq_none.mp hfind r hr)
  | some r' =>
    obtain rfl := OpcodeRow.eq_of_selects (List.mem_of_find?_eq_some hfind) hr (by simpa using List.find?_some hfind) hs
    rfl

theorem decode_eq_illegal_of_no_row {cmd : Word} (h : ∀ r ∈ opcodeTable, r.selects cmd = false) :
    decode cmd = .illegal (illegalReason cmd) := by
  have hfind : opcodeTable.find? (fun r => r.selects cmd) = none :=
    List.find?_eq_none.mpr fun r hr => by simp [h r hr]
  simp only [decode, hfind]

/-- A word is selected by a row, or by none. -/
theorem row_selects_or_no_row (cmd : Word) :
    (∃ r ∈ opcodeTable, r.selects cmd = true) ∨ ∀ r ∈ opcodeTable, r.selects cmd = false := by
  by_cases h : ∃ r ∈ opcodeTable, r.selects cmd = true
  · exact .inl h
  · exact .inr fun r hr => Bool.eq_false_iff.mpr fun hs => h ⟨r, hr, hs⟩

/-- A word decodes to an instruction exactly when the instruction's row selects it and it holds the instruction's operands. -/
theorem decode_eq_ok_iff (cmd : Word) (i : Instr) :
    decode cmd = .ok i ↔ (rowOf i).selects cmd = true ∧ assembleOperands (rowOf i).mnemonic cmd = i := by
  constructor
  · intro hd
    obtain ⟨r, hr, hs⟩ | hno := row_selects_or_no_row cmd
    · obtain rfl := Decoded.ok.inj ((decode_eq_ok_of_selects hr hs).symm.trans hd)
      rw [rowOf_assembleOperands hr]
      exact ⟨hs, rfl⟩
    · exact absurd ((decode_eq_illegal_of_no_row hno).symm.trans hd) (by simp)
  · rintro ⟨hs, hi⟩
    rw [decode_eq_ok_of_selects (rowOf_mem_opcodeTable i) hs, hi]

theorem decode_illegal_iff (cmd : Word) :
    (∃ why, decode cmd = .illegal why) ↔ ∀ r ∈ opcodeTable, r.selects cmd = false := by
  constructor
  · rintro ⟨why, hd⟩
    refine (row_selects_or_no_row cmd).resolve_left ?_
    rintro ⟨r, hr, hs⟩
    exact absurd ((decode_eq_ok_of_selects hr hs).symm.trans hd) (by simp)
  · exact fun hno => ⟨_, decode_eq_illegal_of_no_row hno⟩

theorem decode_ne_ok_of_reserved_op {cmd : Word} (hop : 5 ≤ cmd.toNat / 2 ^ 28) (i : Instr) : decode cmd ≠ .ok i := by
  intro hd
  have hlt : ∀ r ∈ opcodeTable, r.pattern.toNat / 2 ^ 28 < 5 := by decide
  have hmem := rowOf_mem_opcodeTable i
  have heq := OpcodeRow.op_eq_of_selects hmem ((decode_eq_ok_iff cmd i).mp hd).1
  exact absurd (hlt _ hmem) (by omega)

/-! ### The operands (R74) -/

theorem widthField_eq_iff (cmd : Word) (w : Dim) : widthField cmd = w ↔ w.toNat = cmd.toNat % 2 ^ 9 := by
  rw [← BitVec.toNat_inj, widthField, extractLsb'_toNat_eq_div_mod, Nat.pow_zero, Nat.div_one, eq_comm]

theorem heightField_eq_iff (cmd : Word) (h : Dim) : heightField cmd = h ↔ h.toNat = cmd.toNat / 2 ^ 16 % 2 ^ 9 := by
  rw [← BitVec.toNat_inj, heightField, extractLsb'_toNat_eq_div_mod, eq_comm]

theorem colorField_eq_iff (cmd : Word) (c : Color) : colorField cmd = c ↔ c.toNat = cmd.toNat % 2 ^ 24 := by
  rw [← BitVec.toNat_inj, colorField, extractLsb'_toNat_eq_div_mod, Nat.pow_zero, Nat.div_one, eq_comm]

/-- Settles O4: the decoder answers with the row that selects the word, and the operand fields are read as numbers. -/
theorem wordSelectsMnemonicByMaskAndMatch : Obligations.WordSelectsMnemonicByMaskAndMatch := by
  intro cmd
  refine ⟨?_, ?_, fun w h => ?_, fun c => ?_, ?_, decode_ne_ok_of_reserved_op⟩
  all_goals simp only [decode_eq_ok_iff, OpcodeRow.selects_iff, rowOf, assembleOperands, and_true,
    Instr.setdim.injEq, Instr.pixel.injEq, widthField_eq_iff, heightField_eq_iff, colorField_eq_iff]

/-! ### Illegal words (R76) -/

/-- A row of format Z fixes every bit. -/
theorem OpcodeRow.selects_formatZ_iff {r : OpcodeRow} (hm : r.mask = 0xFFFFFFFF#32) (cmd : Word) :
    r.selects cmd = true ↔ cmd.toNat = r.pattern.toNat := by
  rw [r.selects_iff, hm, show 0xFFFFFFFF#32 = BitVec.allOnes 32 from rfl, BitVec.and_allOnes, BitVec.toNat_inj]

/-- The row of format D fixes OP and two RSV fields. -/
theorem setdimRow_selects_iff (w h : Dim) (cmd : Word) :
    (rowOf (.setdim w h)).selects cmd = true ↔
      cmd.toNat / 2 ^ 28 = 2 ∧ cmd.toNat / 2 ^ 25 % 2 ^ 3 = 0 ∧ cmd.toNat / 2 ^ 9 % 2 ^ 7 = 0 := by
  have hmask : (rowOf (.setdim w h)).mask = fieldMask 28 4 ||| (fieldMask 25 3 ||| fieldMask 9 7) := rfl
  rw [OpcodeRow.selects_iff_agree (rowOf_mem_opcodeTable _), hmask, and_or_eq_iff, and_or_eq_iff,
    and_fieldMask_eq_iff _ _ (by decide), and_fieldMask_eq_iff _ _ (by decide), and_fieldMask_eq_iff _ _ (by decide),
    toNat_div_op]
  simp [rowOf]

/-- The row of format P fixes OP and one RSV field. -/
theorem pixelRow_selects_iff (c : Color) (cmd : Word) :
    (rowOf (.pixel c)).selects cmd = true ↔ cmd.toNat / 2 ^ 28 = 3 ∧ cmd.toNat / 2 ^ 24 % 2 ^ 4 = 0 := by
  have hmask : (rowOf (.pixel c)).mask = fieldMask 28 4 ||| fieldMask 24 4 := rfl
  rw [OpcodeRow.selects_iff_agree (rowOf_mem_opcodeTable _), hmask, and_or_eq_iff,
    and_fieldMask_eq_iff _ _ (by decide), and_fieldMask_eq_iff _ _ (by decide), toNat_div_op]
  simp [rowOf]

/-- No row selects a word exactly when it has a reserved OP, or an RSV bit of its format is 1. -/
theorem no_row_selects_iff (cmd : Word) :
    (∀ r ∈ opcodeTable, r.selects cmd = false) ↔
      5 ≤ cmd.toNat / 2 ^ 28 ∨
      ((cmd.toNat / 2 ^ 28 = 0 ∨ cmd.toNat / 2 ^ 28 = 1 ∨ cmd.toNat / 2 ^ 28 = 4) ∧ cmd.toNat % 2 ^ 28 ≠ 0) ∨
      (cmd.toNat / 2 ^ 28 = 2 ∧ (cmd.toNat / 2 ^ 25 % 2 ^ 3 ≠ 0 ∨ cmd.toNat / 2 ^ 9 % 2 ^ 7 ≠ 0)) ∨
      (cmd.toNat / 2 ^ 28 = 3 ∧ cmd.toNat / 2 ^ 24 % 2 ^ 4 ≠ 0) := by
  have htable : opcodeTable = [rowOf .nop, rowOf .clear, rowOf (.setdim 0 0), rowOf (.pixel 0), rowOf .encode] := rfl
  have hnop : (rowOf .nop).selects cmd = true ↔ cmd.toNat = 0x00000000 := OpcodeRow.selects_formatZ_iff rfl cmd
  have hclear : (rowOf .clear).selects cmd = true ↔ cmd.toNat = 0x10000000 := OpcodeRow.selects_formatZ_iff rfl cmd
  have hencode : (rowOf .encode).selects cmd = true ↔ cmd.toNat = 0x40000000 := OpcodeRow.selects_formatZ_iff rfl cmd
  simp only [htable, List.forall_mem_cons, List.not_mem_nil, false_imp_iff, implies_true, and_true,
    ← Bool.not_eq_true, hnop, hclear, setdimRow_selects_iff, pixelRow_selects_iff, hencode]
  omega

end Sys2Proof

namespace Sys2Proof.Machine

/-! ### A delivered word (R76) -/

/-- In ERROR a word is ignored unless it is the word of CLEAR, whether it is legal or not. -/
theorem performCommand_of_error {s : State} (hs : s.state = .error) {cmd : Word} (hcmd : cmd ≠ 0x10000000#32) :
    performCommand cmd s = .next s := by
  obtain ⟨i, hd, heq⟩ | ⟨why, -, heq⟩ := performCommand_cases cmd s
  · rw [heq]
    refine exec_of_error hs ?_
    rintro rfl
    exact hcmd (BitVec.toNat_inj.mp ((OpcodeRow.selects_formatZ_iff rfl cmd).mp ((decode_eq_ok_iff cmd _).mp hd).1))
  · rw [heq, illegalWord, unlessError_of_error hs]

/-- Outside ERROR an illegal word raises ILLEGAL_COMMAND. -/
theorem performCommand_illegal_of_ne_error {s : State} (hs : s.state ≠ .error) {cmd : Word} {why : Illegal}
    (hd : decode cmd = .illegal why) :
    performCommand cmd s = .next { s with state := .error, err := .illegalCommand } := by
  rw [performCommand_illegal cmd why s hd, illegalWord, unlessError_of_ne_error hs]
  rfl

/-- Settles O5: no row selects a word with a reserved OP or an RSV bit at 1; the meanings and the illegal word see to ERROR. -/
theorem illegalWordsRaiseOrAreIgnored : Obligations.IllegalWordsRaiseOrAreIgnored :=
  ⟨fun cmd => (decode_illegal_iff cmd).trans (no_row_selects_iff cmd), decode_illegal_iff, fun cmd s =>
    ⟨fun hs hcmd => performCommand_of_error hs hcmd, fun hs ⟨_, hd⟩ => performCommand_illegal_of_ne_error hs hd,
      fun i hd _ => performCommand_ok cmd i s hd⟩⟩

/-! ### The pseudo-instruction PIXELS (R79) -/

theorem scriptCycles_cons {l : HostLine} {ts : List Transaction} (hl : lineTransactions l = some ts) (ls : List HostLine) :
    scriptCycles (l :: ls) = (scriptCycles ls).map (ts.map Transaction.cycle ++ ·) := by
  cases hls : scriptCycles ls <;> simp [scriptCycles, hl, hls]

theorem scriptCycles_cons_illFormed {l : HostLine} (hl : lineTransactions l = none) (ls : List HostLine) :
    scriptCycles (l :: ls) = none := by
  simp [scriptCycles, hl]

theorem lineTransactions_pixel {c : Nat} (hc : c ≤ 0xFFFFFF) :
    lineTransactions (.pixel c) = some [.command (pixelScriptWord c)] :=
  if_pos (decide_eq_true hc)

theorem lineTransactions_pixels {c n : Nat} (hc : c ≤ 0xFFFFFF) (hn : 1 ≤ n) :
    lineTransactions (.pixels c n) = some (List.replicate n (.command (pixelScriptWord c))) :=
  if_pos (by simp [HostLine.wellFormed, HostLine.colorFits, hc, hn])

theorem lineTransactions_pixels_zero (c : Nat) : lineTransactions (.pixels c 0) = none :=
  if_neg (by simp [HostLine.wellFormed])

/-- `n` lines PIXEL c put `n` times its one cycle before those of the lines after them. -/
theorem scriptCycles_replicate_pixel {c : Nat} (hc : c ≤ 0xFFFFFF) (n : Nat) (ls : List HostLine) :
    scriptCycles (List.replicate n (.pixel c) ++ ls) =
      (scriptCycles ls).map (List.replicate n (Transaction.command (pixelScriptWord c)).cycle ++ ·) := by
  induction n with
  | zero => simp
  | succ n ih =>
    rw [List.replicate_succ, List.cons_append, scriptCycles_cons (lineTransactions_pixel hc), ih, Option.map_map]
    rfl

/-- Settles O8, by induction on the number of lines. -/
theorem pixelsLineIsThatManyPixelLines : Obligations.PixelsLineIsThatManyPixelLines := by
  refine ⟨fun c n ls hc hn => ?_, fun c ls => scriptCycles_cons_illFormed (lineTransactions_pixels_zero c) ls⟩
  rw [scriptCycles_cons (lineTransactions_pixels hc hn), List.map_replicate, scriptCycles_replicate_pixel hc]

end Sys2Proof.Machine
end

section
/-! PROOFS. The family of 40_setup.md: NOP (R100), CLEAR (R101) and SETDIM (R102) with its legal dimensions (R103). -/

namespace Sys2Proof

/-- Fields that do not overlap add: one word is a multiple of a power of two that the other is below. -/
theorem or_toNat_of_dvd_of_lt {a b : Word} {lo : Nat} (ha : 2 ^ lo ∣ a.toNat) (hb : b.toNat < 2 ^ lo) :
    (a ||| b).toNat = a.toNat + b.toNat := by
  obtain ⟨q, hq⟩ := ha
  rw [BitVec.toNat_or, hq, Nat.two_pow_add_eq_or_of_lt hb]

/-- The word of SETDIM is the sum of its three fields (R72). -/
theorem encode_setdim_toNat (w h : Dim) :
    (encode (.setdim w h)).toNat = 0x20000000 + h.toNat * 2 ^ 16 + w.toNat := by
  have hop : (placeField 28 0x2#4).toNat = 0x20000000 := rfl
  have hheight : (placeField 16 h).toNat = h.toNat * 2 ^ 16 := placeField_toNat 16 h (by decide)
  have hwidth : (placeField 0 w).toNat = w.toNat := (placeField_toNat 0 w (by decide)).trans (Nat.mul_one _)
  have hupper : (placeField 28 0x2#4 ||| placeField 16 h).toNat = 0x20000000 + h.toNat * 2 ^ 16 := by
    rw [or_toNat_of_dvd_of_lt (lo := 28) (by omega) (by omega), hop, hheight]
  rw [encode, or_toNat_of_dvd_of_lt (lo := 16) (by omega) (by omega), hupper, hwidth]

end Sys2Proof

namespace Sys2Proof.Machine

/-! ### Words of format Z with an operand bit set (R76) -/

/-- In ERROR an illegal word is ignored. -/
theorem performCommand_illegal_of_error {s : State} (hs : s.state = .error) {cmd : Word} {why : Illegal}
    (hd : decode cmd = .illegal why) : performCommand cmd s = .next s := by
  rw [performCommand_illegal cmd why s hd, illegalWord, unlessError_of_error hs]

theorem decode_illegal_of_formatZ {cmd : Word}
    (hop : cmd.toNat / 2 ^ 28 = 0 ∨ cmd.toNat / 2 ^ 28 = 1 ∨ cmd.toNat / 2 ^ 28 = 4) (hrsv : cmd.toNat % 2 ^ 28 ≠ 0) :
    ∃ why, decode cmd = .illegal why :=
  (decode_illegal_iff cmd).mpr ((no_row_selects_iff cmd).mpr (.inr (.inl ⟨hop, hrsv⟩)))

/-- Settles O14: NOP is the identity, and a word of OP 0 with an RSV bit set is illegal. -/
theorem nopHasNoEffect : Obligations.NopHasNoEffect := by
  refine ⟨exec_nop, rfl, fun cmd s hop hrsv => ?_⟩
  obtain ⟨why, hd⟩ := decode_illegal_of_formatZ (.inl hop) hrsv
  exact ⟨fun hs => performCommand_illegal_of_ne_error hs hd, fun hs => performCommand_illegal_of_error hs hd⟩

/-! ### What a host reads after CLEAR (R101) -/

theorem State.tileSetByte_of_ne_done {s : State} (hs : s.state ≠ .done) (a : Nat) : s.tileSetByte a = 0 :=
  if_pos (.inl hs)

theorem readReg_reset {r : RegName} (hr : r ≠ .id) : State.reset.readReg r = 0 := by
  cases r with
  | id => exact absurd rfl hr
  | pal i => revert i; decide
  | _ => rfl

/-- After CLEAR every register reads as after reset. -/
theorem clearJob_readReg (s : State) (r : RegName) : (clearJob s).readReg r = State.reset.readReg r :=
  State.readReg_congr rfl rfl rfl rfl rfl rfl rfl rfl rfl rfl r

theorem clearJob_palEntry (s : State) (i : PalIndex) : (clearJob s).palEntry i = 0 := by
  simp [State.palEntry]

/-- Settles O15: CLEAR answers `clearJob`, in ERROR every other command is ignored, and a word of OP 1 with an RSV bit set is
illegal. -/
theorem clearAbandonsTheJob : Obligations.ClearAbandonsTheJob := by
  refine ⟨fun s => ⟨clearJob s, exec_clear s, rfl, clearJob_palEntry s, State.cell_congr rfl rfl,
      State.tileSetByte_of_ne_done (by simp), fun r hr => (clearJob_readReg s r).trans (readReg_reset hr)⟩,
    fun i s hs hi => exec_of_error hs hi, rfl, fun cmd s hop hrsv => ?_⟩
  obtain ⟨why, hd⟩ := decode_illegal_of_formatZ (.inr (.inl hop)) hrsv
  exact ⟨fun hs => performCommand_illegal_of_error hs hd, fun hs => performCommand_illegal_of_ne_error hs hd⟩

/-! ### SETDIM (R102) and the legal dimensions (R103) -/

/-- `dim_ok` accepts exactly the multiples 8, 16, ..., 256. -/
theorem dimOk_iff_legalDim (v : Dim) : dimOk v = true ↔ legalDim v := by
  rw [dimOk_iff]
  constructor
  · rintro ⟨hlo, hhi, hmod⟩
    exact ⟨v.toNat / 8, by omega, by omega, by omega⟩
  · rintro ⟨k, hlo, hhi, hv⟩
    omega

theorem legalDim.eight_le {v : Dim} (hv : legalDim v) : 8 ≤ v.toNat := by
  obtain ⟨k, hk, -, hv⟩ := hv
  omega

/-- In IDLE the dimensions decide: both legal open the job, else DIMENSION is raised. -/
theorem execSetdim_of_idle {s : State} (hs : s.state = .idle) (w h : Dim) :
    (legalDim w ∧ legalDim h → execSetdim w h s = .next (openJob w h s)) ∧
    (¬ (legalDim w ∧ legalDim h) → execSetdim w h s = .next (raiseError .dimension s)) := by
  rw [← dimOk_iff_legalDim, ← dimOk_iff_legalDim]
  obtain ⟨herr, -⟩ | ⟨-, hidle, -⟩ | ⟨-, hbad, heq⟩ | ⟨-, hw, hh, heq⟩ := execSetdim_cases w h s
  · exact absurd (hs.symm.trans herr) (by decide)
  · exact absurd hs hidle
  · exact ⟨fun hok => absurd hok hbad, fun _ => heq⟩
  · exact ⟨fun _ => heq, fun hbad => absurd ⟨hw, hh⟩ hbad⟩

/-- In an open job SETDIM raises SEQUENCE, before any look at the dimensions (R162). -/
theorem execSetdim_of_jobOpen {s : State} (hs : s.state = .loading ∨ s.state = .loaded ∨ s.state = .done) (w h : Dim) :
    execSetdim w h s = .next (raiseError .sequence s) := by
  obtain ⟨hj, -⟩ | ⟨-, -, heq⟩ | ⟨hj, -⟩ | ⟨hj, -⟩ := execSetdim_cases w h s
  · simp [hj] at hs
  · exact heq
  · simp [hj] at hs
  · simp [hj] at hs

/-- Settles O16: one equation of SETDIM for IDLE, one for an open job, and ERROR ignores it. -/
theorem setdimOpensAJobOrReportsTheError : Obligations.SetdimOpensAJobOrReportsTheError := by
  refine ⟨fun w h s => ⟨?_, ?_, ?_, ?_⟩, encode_setdim_toNat, dimOk_iff_legalDim, ?_⟩
  · exact fun hs hw hh => (execSetdim_of_idle hs w h).1 ⟨hw, hh⟩
  · exact fun hs hbad => (execSetdim_of_idle hs w h).2 hbad
  · exact fun hs => execSetdim_of_jobOpen hs w h
  · exact fun hs => exec_of_error hs (by simp)
  · exact fun w h hw hh => Nat.mul_le_mul hw.eight_le hh.eight_le

end Sys2Proof.Machine
end

section
/-! PROOFS. The family of 41_palette_quantizer.md: the palette lookup (R120), and that the result of a job depends only on its
commands (R122). Two runs of the same commands are kept alike (R44), and a complete image makes every cell of it a received pixel's. -/

namespace Sys2Proof.Machine

/-! ### The palette lookup (R120) -/

/-- The lookup hits the one valid entry that holds the colour: there is no second one (R27). -/
theorem lookup_eq_some_iff {s : State} (hinv : s.Inv) (c : Color) (i : PalIndex) :
    s.lookup c = some i ↔ s.palValid i = true ∧ s.palEntry i = c := by
  refine ⟨lookup_some s c i, fun ⟨hi, hc⟩ => ?_⟩
  obtain ⟨j, hj⟩ := lookup_isSome s c i hi hc
  obtain ⟨hvalid, hentry⟩ := lookup_some s c j hj
  rw [hj, hinv.colors_distinct j i hvalid hi (hentry.trans hc.symm)]

theorem lookup_eq_none_iff (s : State) (c : Color) :
    s.lookup c = none ↔ ∀ i : PalIndex, s.palValid i = true → s.palEntry i ≠ c := by
  refine ⟨lookup_none s c, fun hno => Option.eq_none_iff_forall_ne_some.mpr fun i hi => ?_⟩
  obtain ⟨hvalid, hentry⟩ := lookup_some s c i hi
  exact hno i hvalid hentry

/-- Settles O18: a hit is the valid entry that holds the colour, and the valid entries are distinct. -/
theorem lookupFindsTheUniqueEntry : Obligations.LookupFindsTheUniqueEntry := by
  intro s c hinv
  simp only [← palValid_iff]
  exact ⟨lookup_eq_some_iff hinv c, lookup_eq_none_iff s c, fun i j hi hj hci hcj =>
    hinv.colors_distinct i j hi hj (hci.trans hcj.symm)⟩

/-! ### Alike states: what they share -/

/-- Alike states look a colour up with the same answer. -/
theorem State.Alike.lookup_eq {s t : State} (h : s.Alike t) (c : Color) : s.lookup c = t.lookup c := by
  simp only [State.lookup, State.palValid, State.palEntry, h.palN, h.palColor]

theorem State.Alike.curX_eq {s t : State} (h : s.Alike t) : s.curX = t.curX := by
  simp only [State.curX, h.pixcount, h.w]

theorem State.Alike.curY_eq {s t : State} (h : s.Alike t) : s.curY = t.curY := by
  simp only [State.curY, h.pixcount, h.w]

theorem State.Alike.npix_eq {s t : State} (h : s.Alike t) : s.npix = t.npix := by
  simp only [State.npix, h.w, h.h]

theorem State.Alike.nextIndex_eq {s t : State} (h : s.Alike t) : s.nextIndex = t.nextIndex := by
  simp only [State.nextIndex, h.palN]

theorem State.Alike.readReg_eq {s t : State} (h : s.Alike t) (r : RegName) : s.readReg r = t.readReg r :=
  State.readReg_congr h.state h.err h.w h.h h.pixcount h.palN h.palColor h.errX h.errY h.errClr r

/-! ### The shared operations keep alike states alike -/

/-- CLEAR makes any two states alike: it leaves only the IndexGrid, and no job is open. -/
theorem clearJob_alike (s t : State) : (clearJob s).Alike (clearJob t) :=
  ⟨rfl, rfl, rfl, rfl, rfl, rfl, rfl, rfl, rfl, rfl, by simp [State.jobOpen]⟩

/-- Error entry writes the same information to both states, and closes the job. -/
theorem raiseError_alike {s t : State} (h : s.Alike t) (e : JobError) :
    (raiseError e s).Alike (raiseError e t) := by
  have hcells : (raiseError e s).jobOpen → ∀ y x, (raiseError e s).received y x →
      (raiseError e s).cell y x = (raiseError e t).cell y x := by simp [State.jobOpen]
  cases e with
  | tooManyColors x y c => exact { h with state := rfl, err := rfl, errX := rfl, errY := rfl, errClr := rfl, cells := hcells }
  | _ => exact { h with state := rfl, err := rfl, cells := hcells }

/-- A job opens with no pixel received. -/
theorem openJob_alike {s t : State} (h : s.Alike t) (w v : Dim) : (openJob w v s).Alike (openJob w v t) :=
  { h with state := rfl, w := rfl, h := rfl, pixcount := rfl, cells := by simp [State.received] }

theorem addColor_alike {s t : State} (h : s.Alike t) (c : Color) : (s.addColor c).Alike (t.addColor c) :=
  { h with
    palN := by simp [h.palN]
    palColor := by simp [h.palColor, h.nextIndex_eq] }

/-- A pixel received after one more is counted was received before, or is the one at the cursor. -/
theorem received_acceptPixel {s : State} {i : PalIndex} {y x : Nat} (hr : (acceptPixel i s).received y x) :
    s.received y x ∨ (s.curY = y ∧ s.curX = x) := by
  obtain ⟨hx, hlt⟩ := hr
  rw [acceptPixel_w] at hx hlt
  have hsucc : (acceptPixel i s).pixcount.toNat ≤ s.pixcount.toNat + 1 := by
    rw [acceptPixel_pixcount, BitVec.toNat_add]
    exact Nat.mod_le _ _
  by_cases hbefore : y * s.w.toNat + x < s.pixcount.toNat
  · exact .inl ⟨hx, hbefore⟩
  · exact .inr (cursor_eq_of_position hx (by omega)).symm

/-- An accepted pixel writes the same index at the same cursor; the pixels received before keep their equal cells. -/
theorem acceptPixel_alike {s t : State} (h : s.Alike t) (hopen : s.jobOpen = true) (i : PalIndex) :
    (acceptPixel i s).Alike (acceptPixel i t) := by
  have hcells (y x : Nat) (hr : (acceptPixel i s).received y x) :
      (acceptPixel i s).cell y x = (acceptPixel i t).cell y x := by
    rw [acceptPixel_cell, acceptPixel_cell, ← h.curX_eq, ← h.curY_eq]
    obtain hbefore | ⟨rfl, rfl⟩ := received_acceptPixel hr
    · rw [h.cells hopen y x hbefore]
    · rw [if_pos rfl, if_pos rfl]
  exact { h with
    state := by simp [h.state, h.pixcount, h.npix_eq]
    pixcount := by simp [h.pixcount]
    cells := fun _ => hcells }

theorem unlessError_alike {s t e e' : State} (h : s.Alike t) (he : e.Alike e') :
    (unlessError s e).Alike (unlessError t e') := by
  by_cases hs : s.state = .error
  · rwa [unlessError_of_error hs, unlessError_of_error (h.state ▸ hs)]
  · rw [unlessError_of_ne_error hs, unlessError_of_ne_error (h.state ▸ hs)]
    exact he

/-! ### The same word keeps alike states alike -/

/-- Both outcomes are next states, and the two states are alike. -/
def NextAlike (o o' : Host.Outcome State Fault Refusal) : Prop :=
  ∃ t t', o = .next t ∧ o' = .next t' ∧ t.Alike t'

theorem State.Alike.nextAlike {t t' : State} (h : t.Alike t') : NextAlike (.next t) (.next t') := ⟨t, t', rfl, rfl, h⟩

/-- The lookup and PAL_N, which decide what becomes of a pixel, are the same in alike states (R121). -/
theorem deliverPixel_alike {s t : State} (h : s.Alike t) (hload : s.state = .loading) (c : Color) :
    (deliverPixel c s).Alike (deliverPixel c t) := by
  have hopen : s.jobOpen = true := (jobOpen_iff s).mpr (.inl hload)
  unfold deliverPixel
  rw [h.lookup_eq c, h.curX_eq, h.curY_eq, h.nextIndex_eq, h.palN]
  cases t.lookup c with
  | some i => exact acceptPixel_alike h hopen i
  | none =>
    dsimp only
    split
    · exact raiseError_alike h _
    · exact acceptPixel_alike (addColor_alike h c) hopen _

theorem execSetdim_nextAlike {s t : State} (h : s.Alike t) (w v : Dim) :
    NextAlike (execSetdim w v s) (execSetdim w v t) := by
  refine (unlessError_alike h ?_).nextAlike
  rw [h.state]
  split
  · exact raiseError_alike h _
  · split
    · exact raiseError_alike h _
    · exact openJob_alike h w v

theorem execPixel_nextAlike {s t : State} (h : s.Alike t) (c : Color) : NextAlike (execPixel c s) (execPixel c t) := by
  refine (unlessError_alike h ?_).nextAlike
  rw [h.state]
  split
  · exact raiseError_alike h _
  · next hload => exact deliverPixel_alike h (h.state.trans (not_not.mp hload)) c

theorem execEncode_nextAlike {s t : State} (h : s.Alike t) : NextAlike (execEncode s) (execEncode t) := by
  refine (unlessError_alike h ?_).nextAlike
  rw [h.state]
  split
  · next hloaded => exact { h with state := rfl, cells := fun _ => h.cells ((jobOpen_iff s).mpr (.inr (.inl (h.state.trans hloaded)))) }
  · split
    · exact h
    · exact raiseError_alike h _

theorem exec_nextAlike {s t : State} (h : s.Alike t) (i : Instr) : NextAlike (exec i s) (exec i t) := by
  cases i with
  | nop => exact h.nextAlike
  | clear => exact (clearJob_alike s t).nextAlike
  | setdim w v => exact execSetdim_nextAlike h w v
  | pixel c => exact execPixel_nextAlike h c
  | encode => exact execEncode_nextAlike h

/-- What a word does to the elements a host can see depends on those elements only (R44). -/
theorem performCommand_nextAlike {s t : State} (h : s.Alike t) (cmd : Word) :
    NextAlike (performCommand cmd s) (performCommand cmd t) := by
  cases hd : decode cmd with
  | ok i =>
    rw [performCommand_ok cmd i s hd, performCommand_ok cmd i t hd]
    exact exec_nextAlike h i
  | illegal why =>
    rw [performCommand_illegal cmd why s hd, performCommand_illegal cmd why t hd]
    exact (unlessError_alike h (raiseError_alike h _)).nextAlike

/-! ### In LOADED and DONE the image is complete (R29, R42 item 2) -/

/-- In LOADED and DONE every pixel of the image has been received. -/
def State.Complete (s : State) : Prop := s.state = .loaded ∨ s.state = .done → s.pixcount.toNat = s.npix

theorem complete_of_state {s : State} (hs : s.state = .idle ∨ s.state = .loading ∨ s.state = .error) : s.Complete := by
  intro hdone
  rcases hs with hs | hs | hs <;> simp [hs] at hdone

theorem raiseError_complete (e : JobError) (s : State) : (raiseError e s).Complete :=
  complete_of_state (.inr (.inr (raiseError_state e s)))

/-- Only the pixel that completes the image leaves LOADING for LOADED. -/
theorem acceptPixel_complete {s : State} (hload : s.state = .loading) (i : PalIndex) : (acceptPixel i s).Complete := by
  by_cases hlast : (s.pixcount + 1).toNat = s.npix
  · exact fun _ => hlast
  · exact complete_of_state (.inr (.inl (by rw [acceptPixel_state, if_neg hlast, hload])))

theorem deliverPixel_complete {s : State} (hload : s.state = .loading) (c : Color) : (deliverPixel c s).Complete := by
  obtain ⟨i, -, heq⟩ | ⟨-, -, heq⟩ | ⟨-, -, heq⟩ := deliverPixel_cases c s <;> rw [heq]
  · exact acceptPixel_complete hload i
  · exact raiseError_complete _ s
  · exact acceptPixel_complete (s := s.addColor c) hload _

theorem exec_complete {s t : State} (hs : s.Complete) {i : Instr} (ht : exec i s = .next t) : t.Complete := by
  cases i with
  | nop =>
    obtain rfl := Host.Outcome.next.inj ht
    exact hs
  | clear =>
    obtain rfl := Host.Outcome.next.inj ht
    exact complete_of_state (.inl rfl)
  | setdim w v =>
    obtain ⟨-, heq⟩ | ⟨-, -, heq⟩ | ⟨-, -, heq⟩ | ⟨-, -, -, heq⟩ := execSetdim_cases w v s
    all_goals obtain rfl := Host.Outcome.next.inj (heq.symm.trans ht)
    · exact hs
    · exact raiseError_complete _ s
    · exact raiseError_complete _ s
    · exact complete_of_state (.inr (.inl rfl))
  | pixel c =>
    obtain ⟨-, heq⟩ | ⟨-, -, heq⟩ | ⟨hload, heq⟩ := execPixel_cases c s
    all_goals obtain rfl := Host.Outcome.next.inj (heq.symm.trans ht)
    · exact hs
    · exact raiseError_complete _ s
    · exact deliverPixel_complete hload c
  | encode =>
    obtain ⟨-, heq⟩ | ⟨hloaded, heq⟩ | ⟨-, heq⟩ | ⟨-, heq⟩ := execEncode_cases s
    all_goals obtain rfl := Host.Outcome.next.inj (heq.symm.trans ht)
    · exact hs
    · exact fun _ => hs (.inl hloaded)
    · exact hs
    · exact raiseError_complete _ s

theorem performCommand_complete {s t : State} (hs : s.Complete) {cmd : Word} (ht : performCommand cmd s = .next t) :
    t.Complete := by
  obtain ⟨i, -, heq⟩ | ⟨why, -, heq⟩ := performCommand_cases cmd s
  · exact exec_complete hs (heq.symm.trans ht)
  · obtain rfl := Host.Outcome.next.inj (heq.symm.trans ht)
    obtain ⟨-, heq⟩ | ⟨-, heq⟩ := illegalWord_cases s <;> rw [heq]
    · exact hs
    · exact raiseError_complete _ s

/-! ### Alike states with a complete image have the same image and the same TileSet -/

/-- In a complete image the pixel of every row and column has been received. -/
theorem received_of_complete {s : State} (hs : s.Complete) (hstate : s.state = .loaded ∨ s.state = .done) {y x : Nat}
    (hy : y < s.h.toNat) (hx : x < s.w.toNat) : s.received y x := by
  refine ⟨hx, ?_⟩
  calc y * s.w.toNat + x
      < (y + 1) * s.w.toNat := by rw [Nat.add_mul]; omega
    _ ≤ s.h.toNat * s.w.toNat := Nat.mul_le_mul_right _ hy
    _ = s.pixcount.toNat := by rw [hs hstate, State.npix, Nat.mul_comm]

theorem State.Alike.image_cell_eq {s t : State} (h : s.Alike t) (hs : s.Complete)
    (hstate : s.state = .loaded ∨ s.state = .done) {y x : Nat} (hy : y < s.h.toNat) (hx : x < s.w.toNat) :
    s.cell y x = t.cell y x :=
  h.cells ((jobOpen_iff s).mpr (.inr hstate)) y x (received_of_complete hs hstate hy hx)

/-- The pixels that byte `a` of the TileSet packs lie in the image (R142). -/
theorem tileSet_pixel_in_image (s : State) {a j : Nat} (ha : a < 16 * s.tileCount) (hj : j < 8) :
    8 * (a / 16 / s.tileCols) + a % 16 / 2 < s.h.toNat ∧ 8 * (a / 16 % s.tileCols) + j < s.w.toNat := by
  have htile : a / 16 < s.tileCols * s.tileRows := Nat.div_lt_of_lt_mul ha
  have hrow : a / 16 / s.tileCols < s.tileRows := Nat.div_lt_of_lt_mul htile
  have hcol : a / 16 % s.tileCols < s.tileCols := Nat.mod_lt _ (Nat.pos_of_ne_zero fun hzero => by simp [hzero] at htile)
  have hrows : s.tileRows = s.h.toNat / 8 := rfl
  have hcols : s.tileCols = s.w.toNat / 8 := rfl
  omega

theorem State.Alike.tileSetByte_eq {s t : State} (h : s.Alike t) (hs : s.Complete) (a : Nat) :
    s.tileSetByte a = t.tileSetByte a := by
  refine (State.tileSetByte_congr h.state.symm h.w.symm h.h.symm a fun hdone ha j hj => ?_).symm
  obtain ⟨hy, hx⟩ := tileSet_pixel_in_image s ha hj
  exact (h.image_cell_eq hs (.inr hdone) hy hx).symm

/-! ### A list of words (R122) -/

theorem afterCommands_cons_of_next {cmd : Word} {s t : State} (ht : performCommand cmd s = .next t) (cmds : List Word) :
    afterCommands (cmd :: cmds) s = afterCommands cmds t := by
  simp only [afterCommands, ht]

theorem afterCommands_clear (cmds : List Word) (s : State) :
    afterCommands (encode .clear :: cmds) s = afterCommands cmds (clearJob s) :=
  afterCommands_cons_of_next rfl cmds

/-- The same words keep alike states alike, and the image complete in LOADED and DONE. -/
theorem afterCommands_alike_complete (cmds : List Word) {s t : State} (h : s.Alike t) (hs : s.Complete) :
    (afterCommands cmds s).Alike (afterCommands cmds t) ∧ (afterCommands cmds s).Complete := by
  induction cmds generalizing s t with
  | nil => exact ⟨h, hs⟩
  | cons cmd cmds ih =>
    obtain ⟨s', t', hs', ht', halike⟩ := performCommand_nextAlike h cmd
    rw [afterCommands_cons_of_next hs', afterCommands_cons_of_next ht']
    exact ih halike (performCommand_complete hs hs')

/-- Settles O49: CLEAR makes the two states alike whatever they held, the words keep them so, and at LOADED and DONE every cell of
the image is a received pixel's. -/
theorem sameCommandsAfterClearGiveTheSameResult : Obligations.SameCommandsAfterClearGiveTheSameResult := by
  intro s s' cmds _ _
  rw [afterCommands_clear, afterCommands_clear]
  obtain ⟨halike, hcomplete⟩ := afterCommands_alike_complete cmds (clearJob_alike s s') (complete_of_state (.inl rfl))
  exact ⟨halike.readReg_eq, halike.palN, halike.palColor, halike.tileSetByte_eq hcomplete,
    fun hloaded _ _ => halike.image_cell_eq hcomplete (.inl hloaded)⟩

end Sys2Proof.Machine
end

section
/-! PROOFS. The family of 42_tile_encoder.md: ENCODE (R140), the TileSet byte function (R141 to R145), that it is frozen in DONE (R146)
and that the packing is invertible (R147). -/

namespace Sys2Proof.Machine

/-! ### The bits of a packed byte (R143, R145) -/

theorem planeByte_bit (s : State) (y x0 : Nat) (p : Plane) {j : Nat} (hj : j < 8) :
    (s.planeByte y x0 p).getLsbD (7 - j) = planeBit p (s.cell y (x0 + j)) :=
  packByte_bit _ j hj

/-- A byte is known from its bits in pixel order, bit 7 first. -/
theorem byte_eq_zero_of_bits {b : Byte} (h : ∀ j, j < 8 → b.getLsbD (7 - j) = false) : b = 0 := by
  refine BitVec.eq_of_getLsbD_eq fun i hi => ?_
  have hbit := h (7 - i) (by omega)
  rw [show 7 - (7 - i) = i by omega] at hbit
  rw [hbit, BitVec.ofNat_eq_ofNat, BitVec.getLsbD_zero]

theorem planeBit_zero (p : Plane) : planeBit p 0 = false := by
  cases p <;> rfl

/-- A tile row of cells 0 packs to `0x00` in both planes. -/
theorem planeByte_eq_zero {s : State} {y x0 : Nat} (h : ∀ j, j < 8 → s.cell y (x0 + j) = 0) (p : Plane) :
    s.planeByte y x0 p = 0 :=
  byte_eq_zero_of_bits fun j hj => by rw [planeByte_bit s y x0 p hj, h j hj, planeBit_zero]

/-- The two plane bits give the index back (R145). -/
theorem palIndex_toNat_eq_planeBits (v : PalIndex) :
    v.toNat = 2 * (planeBit .high v).toNat + (planeBit .low v).toNat := by
  revert v
  decide

/-! ### The TileSet byte function (R141, R142, R144) -/

theorem State.tileSetByte_of_le {s : State} {a : Nat} (ha : 16 * s.tileCount ≤ a) : s.tileSetByte a = 0 :=
  if_pos (.inr ha)

/-- Byte `k` of tile `t` is the plane byte of its row `k div 2` and its plane `k mod 2`. -/
theorem State.tileSetByte_of_tile {s : State} (hd : s.state = .done) {t k : Nat} (ht : t < s.tileCount) (hk : k < 16) :
    s.tileSetByte (16 * t + k) =
      s.planeByte (8 * (t / s.tileCols) + k / 2) (8 * (t % s.tileCols)) (planeOfByte k) := by
  have hinside : ¬ (s.state ≠ .done ∨ 16 * s.tileCount ≤ 16 * t + k) := by
    rintro (hnot | hle)
    · exact hnot hd
    · omega
  have htile : (16 * t + k) / 16 = t := by omega
  have hbyte : (16 * t + k) % 16 = k := by omega
  simp only [State.tileSetByte, Config.bytesPerTile, Config.tileDim, if_neg hinside, htile, hbyte]

/-- Row `r` of a tile has the low plane at byte `2r`. -/
theorem State.tileSetByte_low {s : State} (hd : s.state = .done) {t r : Nat} (ht : t < s.tileCount) (hr : r < 8) :
    s.tileSetByte (16 * t + 2 * r) = s.planeByte (8 * (t / s.tileCols) + r) (8 * (t % s.tileCols)) .low := by
  rw [State.tileSetByte_of_tile hd ht (by omega), show 2 * r / 2 = r by omega, planeOfByte, if_pos (by omega)]

/-- Row `r` of a tile has the high plane at byte `2r + 1`. -/
theorem State.tileSetByte_high {s : State} (hd : s.state = .done) {t r : Nat} (ht : t < s.tileCount) (hr : r < 8) :
    s.tileSetByte (16 * t + 2 * r + 1) = s.planeByte (8 * (t / s.tileCols) + r) (8 * (t % s.tileCols)) .high := by
  rw [Nat.add_assoc, State.tileSetByte_of_tile hd ht (by omega), show (2 * r + 1) / 2 = r by omega, planeOfByte,
    if_neg (by omega)]

/-- Settles O29: a byte of a tile is a plane byte of one of its rows, whose bits are the plane bits of the row's cells. -/
theorem tileSetBytesPackTheTilesInOrder : Obligations.TileSetBytesPackTheTilesInOrder := by
  intro s
  refine ⟨fun a hnot => State.tileSetByte_of_ne_done hnot a, fun a ha => State.tileSetByte_of_le ha,
    fun t r j hd ht hr hj => ⟨?_, ?_⟩⟩
  · rw [State.tileSetByte_low hd ht hr]
    exact planeByte_bit s _ _ .low hj
  · rw [State.tileSetByte_high hd ht hr]
    exact planeByte_bit s _ _ .high hj

/-! ### The tile of a pixel (R147) -/

/-- The tile at a tile row and a tile column is below NT, and its number gives both back (R141). -/
theorem tileNumber_spec {cols rows tr tc : Nat} (hr : tr < rows) (hc : tc < cols) :
    tr * cols + tc < cols * rows ∧ (tr * cols + tc) / cols = tr ∧ (tr * cols + tc) % cols = tc := by
  constructor
  · calc tr * cols + tc
        < (tr + 1) * cols := by rw [Nat.add_mul]; omega
      _ ≤ rows * cols := Nat.mul_le_mul_right _ hr
      _ = cols * rows := Nat.mul_comm _ _
  · exact (Nat.div_mod_unique (by omega)).mpr ⟨by rw [Nat.mul_comm, Nat.add_comm], hc⟩

/-- Where W and H are multiples of 8, a pixel of the image lies in a tile of the TileSet, at row `y mod 8` and column `x mod 8`. -/
theorem State.tile_of_pixel {s : State} (hw : s.w.toNat % 8 = 0) (hh : s.h.toNat % 8 = 0) {y x : Nat}
    (hx : x < s.w.toNat) (hy : y < s.h.toNat) :
    y / 8 * s.tileCols + x / 8 < s.tileCount ∧
    8 * ((y / 8 * s.tileCols + x / 8) / s.tileCols) + y % 8 = y ∧
    8 * ((y / 8 * s.tileCols + x / 8) % s.tileCols) + x % 8 = x := by
  have hrow : y / 8 < s.h.toNat / 8 := by omega
  have hcol : x / 8 < s.w.toNat / 8 := by omega
  obtain ⟨hlt, hdiv, hmod⟩ := tileNumber_spec (rows := s.tileRows) (cols := s.tileCols) hrow hcol
  exact ⟨hlt, by rw [hdiv, Nat.div_add_mod], by rw [hmod, Nat.div_add_mod]⟩

/-- Settles O30: a pixel's cell is at its tile's place, and its index is made of the two plane bits packed there. -/
theorem packingIsInvertible : Obligations.PackingIsInvertible := by
  intro s hinv hd
  refine ⟨fun a ha => State.tileSetByte_of_le ha, fun x y hx hy => ?_, fun t k ht hk hzero => ?_⟩
  · obtain ⟨hw, hh⟩ := hinv.open_dims ((jobOpen_iff s).mpr (.inr (.inr hd)))
    obtain ⟨-, -, hw⟩ := (dimOk_iff s.w).mp hw
    obtain ⟨-, -, hh⟩ := (dimOk_iff s.h).mp hh
    obtain ⟨ht, hy', hx'⟩ := State.tile_of_pixel hw hh hx hy
    intro t
    change t < s.tileCount at ht
    change 8 * (t / s.tileCols) + y % 8 = y at hy'
    change 8 * (t % s.tileCols) + x % 8 = x at hx'
    refine ⟨show 16 * t + 2 * (y % 8) + 1 < 16 * s.tileCount by omega, ?_⟩
    rw [State.tileSetByte_low hd ht (by omega), State.tileSetByte_high hd ht (by omega), planeByte_bit _ _ _ _ (by omega),
      planeByte_bit _ _ _ _ (by omega), hy', hx']
    exact palIndex_toNat_eq_planeBits _
  · rw [State.tileSetByte_of_tile hd ht hk]
    exact planeByte_eq_zero (fun j hj => hzero (k / 2) j (by omega) hj) _

/-! ### DONE is left or the state is kept (R140, R146) -/

/-- In DONE a PIXEL raises SEQUENCE. -/
theorem execPixel_of_done {s : State} (hd : s.state = .done) (c : Color) :
    execPixel c s = .next (raiseError .sequence s) := by
  obtain ⟨hj, -⟩ | ⟨-, -, heq⟩ | ⟨hj, -⟩ := execPixel_cases c s
  · simp [hj] at hd
  · exact heq
  · simp [hj] at hd

theorem execEncode_of_done {s : State} (hd : s.state = .done) : execEncode s = .next s := by
  obtain ⟨-, heq⟩ | ⟨hj, -⟩ | ⟨-, heq⟩ | ⟨hj, -⟩ := execEncode_cases s
  · exact heq
  · simp [hj] at hd
  · exact heq
  · simp [hd] at hj

/-- In DONE a command leaves DONE or changes nothing: NOP and ENCODE answer the state itself, CLEAR goes to IDLE, and SETDIM and
PIXEL go to ERROR. -/
theorem exec_eq_self_of_done {s t : State} (hd : s.state = .done) {i : Instr} (ht : exec i s = .next t)
    (htd : t.state = .done) : t = s := by
  cases i with
  | nop => exact (Host.Outcome.next.inj ht).symm
  | clear =>
    obtain rfl := Host.Outcome.next.inj ht
    simp at htd
  | setdim w h =>
    obtain rfl := Host.Outcome.next.inj ((execSetdim_of_jobOpen (.inr (.inr hd)) w h).symm.trans ht)
    simp at htd
  | pixel c =>
    obtain rfl := Host.Outcome.next.inj ((execPixel_of_done hd c).symm.trans ht)
    simp at htd
  | encode => exact (Host.Outcome.next.inj ((execEncode_of_done hd).symm.trans ht)).symm

theorem performCommand_eq_self_of_done {s t : State} (hd : s.state = .done) {cmd : Word}
    (ht : performCommand cmd s = .next t) (htd : t.state = .done) : t = s := by
  obtain ⟨i, -, heq⟩ | ⟨why, hw, -⟩ := performCommand_cases cmd s
  · exact exec_eq_self_of_done hd (heq.symm.trans ht) htd
  · obtain rfl := Host.Outcome.next.inj ((performCommand_illegal_of_ne_error (by simp [hd]) hw).symm.trans ht)
    cases htd

/-- The states differ in the port alone: the waiting cycles and the read data, which are no elements of R43. -/
def State.SameButPort (s t : State) : Prop := ∃ p d, t = { s with pending := p, rdata := d }

theorem State.SameButPort.cell_eq {s t : State} (h : s.SameButPort t) (y x : Nat) : t.cell y x = s.cell y x := by
  obtain ⟨p, d, rfl⟩ := h
  exact State.cell_congr rfl rfl y x

theorem State.SameButPort.tileSetByte_eq {s t : State} (h : s.SameButPort t) (a : Nat) :
    t.tileSetByte a = s.tileSetByte a := by
  have hcell := h.cell_eq
  obtain ⟨p, d, rfl⟩ := h
  exact State.tileSetByte_congr rfl rfl rfl a fun _ _ _ _ => hcell _ _

/-- A transaction that stays in DONE read something, or had no effect. -/
theorem performTransaction_sameButPort_of_done {s s' : State} (hd : s.state = .done) {t : Transaction}
    (ht : performTransaction t s = .next s') (hd' : s'.state = .done) : s.SameButPort s' := by
  obtain ⟨a, z, -, heq⟩ | ⟨a, d, -, -, heq⟩ | ⟨a, z, d, -, -, heq⟩ := performTransaction_cases t s
  · exact ⟨_, _, (Host.Outcome.next.inj (heq.symm.trans ht)).symm⟩
  · exact ⟨_, _, performCommand_eq_self_of_done hd (heq.symm.trans ht) hd'⟩
  · exact ⟨_, _, (Host.Outcome.next.inj (heq.symm.trans ht)).symm⟩

/-- A step that stays in DONE changes the port alone; a cycle in reset does not stay. -/
theorem step_sameButPort_of_done {s t : State} (hd : s.state = .done) (ht : step s = .next t) (htd : t.state = .done) :
    s.SameButPort t := by
  obtain ⟨-, heq⟩ | ⟨c, rest, -, -, heq⟩ | ⟨c, rest, -, -, -, heq⟩ | ⟨c, rest, tr, -, -, -, heq⟩ := step_cases s
  · exact ⟨_, _, (Host.Outcome.next.inj (heq.symm.trans ht)).symm⟩
  · obtain rfl := Host.Outcome.next.inj (heq.symm.trans ht)
    cases htd
  · exact ⟨_, _, (Host.Outcome.next.inj (heq.symm.trans ht)).symm⟩
  · have hd' : State.state { s with pending := rest, rdata := none } = .done := hd
    obtain ⟨p, d, rfl⟩ := performTransaction_sameButPort_of_done hd' (heq.symm.trans ht) htd
    exact ⟨p, d, rfl⟩

/-- Settles O31: a step that stays in DONE changes the port alone, and PIXEL and SETDIM raise SEQUENCE. -/
theorem tileSetIsFrozenWhileDone : Obligations.TileSetIsFrozenWhileDone := by
  constructor
  · intro s t hd ht htd
    have hsame := step_sameButPort_of_done hd ht htd
    refine ⟨hsame.tileSetByte_eq, hsame.cell_eq, ?_⟩
    obtain ⟨p, d, rfl⟩ := hsame
    exact ⟨rfl, rfl, rfl, rfl⟩
  · rintro s i hd (⟨c, rfl⟩ | ⟨w, h, rfl⟩)
    · exact execPixel_of_done hd c
    · exact execSetdim_of_jobOpen (.inr (.inr hd)) w h

/-- Settles O28: one clause for each outcome of ENCODE; an 8 by 8 image has one tile. -/
theorem encodeMakesTheTileSetReadable : Obligations.EncodeMakesTheTileSetReadable := by
  refine ⟨fun s => ?_, rfl, fun s a hw hh ha => State.tileSetByte_of_le ?_⟩
  · obtain ⟨hs, heq⟩ | ⟨hs, heq⟩ | ⟨hs, heq⟩ | ⟨hs | hs, heq⟩ := execEncode_cases s <;>
      simp [hs, heq, raiseError, JobError.errCode]
  · have hone : s.tileCount = 1 := by simp [State.tileCount, State.tileCols, State.tileRows, hw, hh]
    rwa [hone]

end Sys2Proof.Machine
end

section
/-! PROOFS. The family of 60_exceptions.md: precise error entry (R160), the order in which errors are reported (R162), that ERROR ignores
everything but CLEAR (R163), and the ways out of ERROR (R164). -/

namespace Sys2Proof

/-- A word that decodes to PIXEL is the word of that PIXEL: OP, four RSV bits at 0, and the colour (R73). -/
theorem eq_encode_of_decode_pixel {cmd : Word} {c : Color} (hd : decode cmd = .ok (.pixel c)) : cmd = encode (.pixel c) := by
  obtain ⟨hrow, hoperand⟩ := (decode_eq_ok_iff cmd (.pixel c)).mp hd
  obtain ⟨hop, hrsv⟩ := (pixelRow_selects_iff c cmd).mp hrow
  have hcolor : c.toNat = cmd.toNat % 2 ^ 24 := (colorField_eq_iff cmd c).mp (Instr.pixel.inj hoperand)
  have hlow : (placeField 0 c).toNat = c.toNat := (placeField_toNat 0 c (by decide)).trans (Nat.mul_one _)
  have hhigh : (placeField 28 0x3#4).toNat = 0x30000000 := rfl
  have hword : (encode (.pixel c)).toNat = 0x30000000 + c.toNat := by
    rw [encode, or_toNat_of_dvd_of_lt (lo := 28) (by omega) (by omega), hhigh, hlow]
  exact BitVec.toNat_inj.mp (by omega)

end Sys2Proof

namespace Sys2Proof.Machine

/-! ### Error entry (R160) -/

/-- An accepted pixel leaves STATE as it is or completes the image. -/
theorem acceptPixel_state_ne_error {s : State} (hs : s.state ≠ .error) (i : PalIndex) :
    (acceptPixel i s).state ≠ .error := by
  rw [acceptPixel_state]
  split
  · decide
  · exact hs

/-- A pixel delivered in LOADING raises no error but TOO_MANY_COLORS, at the cursor. -/
theorem deliverPixel_eq_raiseError {s : State} (hs : s.state ≠ .error) {c : Color}
    (he : (deliverPixel c s).state = .error) :
    deliverPixel c s = raiseError (.tooManyColors s.curX s.curY c) s := by
  obtain ⟨i, -, heq⟩ | ⟨-, -, heq⟩ | ⟨-, -, heq⟩ := deliverPixel_cases c s
  · exact absurd (heq ▸ he) (acceptPixel_state_ne_error hs i)
  · exact heq
  · exact absurd (heq ▸ he) (acceptPixel_state_ne_error (s := s.addColor c) hs _)

/-- A command that takes the block to ERROR did nothing but raise one error, TOO_MANY_COLORS only if it is a PIXEL. -/
theorem exec_error_entry {s t : State} {i : Instr} (hs : s.state ≠ .error) (ht : exec i s = .next t)
    (hte : t.state = .error) :
    t = raiseError .dimension s ∨ t = raiseError .sequence s ∨
      ∃ c, i = .pixel c ∧ t = raiseError (.tooManyColors s.curX s.curY c) s := by
  cases i with
  | nop =>
    obtain rfl := Host.Outcome.next.inj ht
    exact absurd hte hs
  | clear =>
    obtain rfl := Host.Outcome.next.inj ht
    cases hte
  | setdim w h =>
    obtain ⟨hse, -⟩ | ⟨-, -, heq⟩ | ⟨-, -, heq⟩ | ⟨-, -, -, heq⟩ := execSetdim_cases w h s
    · exact absurd hse hs
    all_goals obtain rfl := Host.Outcome.next.inj (heq.symm.trans ht)
    · exact .inr (.inl rfl)
    · exact .inl rfl
    · cases hte
  | pixel c =>
    obtain ⟨hse, -⟩ | ⟨-, -, heq⟩ | ⟨-, heq⟩ := execPixel_cases c s
    · exact absurd hse hs
    all_goals obtain rfl := Host.Outcome.next.inj (heq.symm.trans ht)
    · exact .inr (.inl rfl)
    · exact .inr (.inr ⟨c, rfl, deliverPixel_eq_raiseError hs hte⟩)
  | encode =>
    obtain ⟨hse, -⟩ | ⟨-, heq⟩ | ⟨-, heq⟩ | ⟨-, heq⟩ := execEncode_cases s
    · exact absurd hse hs
    all_goals obtain rfl := Host.Outcome.next.inj (heq.symm.trans ht)
    · cases hte
    · exact absurd hte hs
    · exact .inr (.inl rfl)

/-- A delivered word that takes the block to ERROR did nothing but raise one error. -/
theorem performCommand_error_entry {s t : State} {cmd : Word} (hs : s.state ≠ .error)
    (ht : performCommand cmd s = .next t) (hte : t.state = .error) :
    t = raiseError .dimension s ∨ t = raiseError .sequence s ∨ t = raiseError .illegalCommand s ∨
      ∃ c, cmd = encode (.pixel c) ∧ t = raiseError (.tooManyColors s.curX s.curY c) s := by
  obtain ⟨i, hd, heq⟩ | ⟨why, hd, -⟩ := performCommand_cases cmd s
  · obtain hdim | hseq | ⟨c, rfl, hcol⟩ := exec_error_entry hs (heq.symm.trans ht) hte
    · exact .inl hdim
    · exact .inr (.inl hseq)
    · exact .inr (.inr (.inr ⟨c, eq_encode_of_decode_pixel hd, hcol⟩))
  · exact .inr (.inr (.inl (Host.Outcome.next.inj (ht.symm.trans (performCommand_illegal_of_ne_error hs hd)))))

/-- Error entry changes none of the registers that describe the job. -/
theorem raiseError_readReg_job (e : JobError) (s : State) :
    (raiseError e s).readReg .dim = s.readReg .dim ∧ (raiseError e s).readReg .geom = s.readReg .geom ∧
    (raiseError e s).readReg .pixcount = s.readReg .pixcount ∧
    ∀ i : PalIndex, (raiseError e s).readReg (.pal i) = s.readReg (.pal i) := by
  cases e <;> exact ⟨rfl, rfl, rfl, fun _ => rfl⟩

/-- Settles O40: a word that takes the block to ERROR raises one error, whose entry leaves the job's registers as they are. -/
theorem errorEntryIsPrecise : Obligations.ErrorEntryIsPrecise := by
  intro cmd s t ht hs hte
  obtain rfl | rfl | rfl | ⟨c, hcmd, rfl⟩ := performCommand_error_entry hs ht hte
  · exact ⟨.inl rfl, raiseError_readReg_job _ s⟩
  · exact ⟨.inr (.inl rfl), raiseError_readReg_job _ s⟩
  · exact ⟨.inr (.inr (.inl rfl)), raiseError_readReg_job _ s⟩
  · exact ⟨.inr (.inr (.inr ⟨c, hcmd, rfl⟩)), raiseError_readReg_job _ s⟩

/-! ### The order in which errors are reported (R162) -/

/-- Outside ERROR a command that is not legal in STATE raises SEQUENCE, whatever its operands. -/
theorem exec_raises_sequence {s : State} {i : Instr} (hs : s.state ≠ .error)
    (hi : (s.state ≠ .idle ∧ ∃ w h, i = .setdim w h) ∨ (s.state ≠ .loading ∧ ∃ c, i = .pixel c) ∨
      (s.state ≠ .loaded ∧ s.state ≠ .done ∧ i = .encode)) :
    exec i s = .next (raiseError .sequence s) := by
  obtain ⟨hj, w, h, rfl⟩ | ⟨hj, c, rfl⟩ | ⟨hj, hj', rfl⟩ := hi
  · obtain ⟨herr, -⟩ | ⟨-, -, heq⟩ | ⟨hidle, -⟩ | ⟨hidle, -⟩ := execSetdim_cases w h s
    · exact absurd herr hs
    · exact heq
    · exact absurd hidle hj
    · exact absurd hidle hj
  · obtain ⟨herr, -⟩ | ⟨-, -, heq⟩ | ⟨hload, -⟩ := execPixel_cases c s
    · exact absurd herr hs
    · exact heq
    · exact absurd hload hj
  · obtain ⟨herr, -⟩ | ⟨hloaded, -⟩ | ⟨hdone, -⟩ | ⟨-, heq⟩ := execEncode_cases s
    · exact absurd herr hs
    · exact absurd hloaded hj
    · exact absurd hdone hj'
    · exact heq

/-- In LOADING with four entries, a PIXEL of a colour that no entry holds raises TOO_MANY_COLORS at the cursor. -/
theorem exec_pixel_raises_tooManyColors {s : State} {c : Color} (hl : s.state = .loading) (hn : s.palN.toNat = 4)
    (hc : ∀ i : PalIndex, s.palEntry i ≠ c) :
    exec (.pixel c) s = .next (raiseError (.tooManyColors s.curX s.curY c) s) := by
  rw [exec_pixel_of_loading hl]
  obtain ⟨i, hi, -⟩ | ⟨-, -, heq⟩ | ⟨-, hroom, -⟩ := deliverPixel_cases c s
  · exact absurd (lookup_some s c i hi).2 (hc i)
  · rw [heq]
  · exact absurd hn hroom

/-- Settles O41: one lemma for each place in the order; the two examples are its clauses at a word. -/
theorem firstErrorInThePriorityOrderIsReported : Obligations.FirstErrorInThePriorityOrderIsReported := by
  refine ⟨fun cmd s => ⟨fun hs hcmd => performCommand_of_error hs hcmd,
    fun hs ⟨_, hd⟩ => performCommand_illegal_of_ne_error hs hd, ?_, ?_, ?_⟩, fun s hs => ?_, fun s hs => ?_⟩
  · intro i hs hd hi
    exact (performCommand_ok cmd i s hd).trans (exec_raises_sequence hs hi)
  · intro w h hd hs hbad
    exact (performCommand_ok cmd _ s hd).trans ((execSetdim_of_idle hs w h).2 hbad)
  · intro c hd hl hn hc
    exact ⟨_, (performCommand_ok cmd _ s hd).trans (exec_pixel_raises_tooManyColors hl hn hc), rfl, rfl⟩
  · exact (performCommand_ok _ (.setdim 10 8) s rfl).trans (execSetdim_of_jobOpen (.inl hs) 10 8)
  · exact performCommand_illegal_of_ne_error (by simp [hs]) (why := .reservedBits) rfl

/-! ### The step, by what the next cycle presents -/

theorem step_of_no_cycle {s : State} (hp : s.pending = []) : step s = .next (idleCycle s) := by
  simp [step, takeCycle, hp]

section
variable {s : State} {c : BusCycle} {rest : List BusCycle} (hp : s.pending = c :: rest)
include hp

theorem step_of_reset (hr : c.rstN = false) :
    step s = .next { resetBlock { s with pending := rest } with rdata := readDataInReset c } := by
  simp [step, takeCycle, performCycle, hp, hr]

theorem step_of_no_transaction (hr : c.rstN = true) (ht : c.transaction = none) :
    step s = .next { s with pending := rest, rdata := none } := by
  simp [step, takeCycle, performCycle, hp, hr, ht]

theorem step_of_transaction {t : Transaction} (hr : c.rstN = true) (ht : c.transaction = some t) :
    step s = performTransaction t { s with pending := rest, rdata := none } := by
  simp [step, takeCycle, performCycle, hp, hr, ht]

end

/-- A cycle delivers a word exactly when it presents a 4-byte write of it to CMD outside reset (R55). -/
theorem commandOf_eq_some_iff (c : BusCycle) (cmd : Word) :
    commandOf c = some cmd ↔
      c.rstN = true ∧ ∃ a, c.transaction = some (.write a .four cmd) ∧ effectiveAddress a .four = cmdAddr := by
  unfold commandOf
  split
  · next a d hr ht => simp [hr, ht, and_comm]
  · next hno =>
    simp only [reduceCtorEq, false_iff]
    rintro ⟨hr, a, ht, -⟩
    exact hno a cmd hr ht

theorem step_of_command {s : State} {c : BusCycle} {rest : List BusCycle} (hp : s.pending = c :: rest) {cmd : Word}
    (hcmd : commandOf c = some cmd) : step s = performCommand cmd { s with pending := rest, rdata := none } := by
  obtain ⟨hr, a, ht, ha⟩ := (commandOf_eq_some_iff c cmd).mp hcmd
  rw [step_of_transaction hp hr ht]
  exact if_pos ⟨rfl, ha⟩

/-! ### In ERROR (R163) -/

/-- In ERROR a transaction that is not the write of CLEAR to CMD changes the read data at most, and a read sets it. -/
theorem performTransaction_of_error {s : State} (hs : s.state = .error) {t : Transaction}
    (hclear : ∀ a, effectiveAddress a .four = cmdAddr → t ≠ .write a .four 0x10000000#32) :
    ∃ r, performTransaction t s = .next { s with rdata := r } ∧ ∀ a z, t = .read a z → r = some (s.busRead a z) := by
  obtain ⟨a, z, rfl, heq⟩ | ⟨a, d, rfl, ha, heq⟩ | ⟨a, z, d, rfl, -, heq⟩ := performTransaction_cases t s
  · refine ⟨_, heq, fun a' z' h => ?_⟩
    obtain ⟨rfl, rfl⟩ := Transaction.read.inj h
    rfl
  · have hd : d ≠ 0x10000000#32 := fun h => hclear a ha (h ▸ rfl)
    exact ⟨s.rdata, heq.trans (performCommand_of_error hs hd), fun _ _ h => nomatch h⟩
  · exact ⟨s.rdata, heq, fun _ _ h => nomatch h⟩

/-- In ERROR a cycle outside reset that does not deliver CLEAR is consumed, and changes the read data at most. -/
theorem step_of_error {s : State} (hs : s.state = .error) {c : BusCycle} {rest : List BusCycle}
    (hp : s.pending = c :: rest) (hr : c.rstN = true) (hcmd : commandOf c ≠ some 0x10000000#32) :
    ∃ r, step s = .next { s with pending := rest, rdata := r } ∧
      ∀ addr z, c.transaction = some (.read addr z) → r = some (s.busRead addr z) := by
  cases ht : c.transaction with
  | none => exact ⟨none, step_of_no_transaction hp hr ht, fun _ _ h => nomatch h⟩
  | some t =>
    have hclear (a : Addr) (ha : effectiveAddress a .four = cmdAddr) : t ≠ .write a .four 0x10000000#32 := by
      rintro rfl
      exact hcmd ((commandOf_eq_some_iff c _).mpr ⟨hr, a, ht, ha⟩)
    have hs' : State.state { s with pending := rest, rdata := none } = .error := hs
    obtain ⟨r, heq, hread⟩ := performTransaction_of_error hs' hclear
    refine ⟨r, (step_of_transaction hp hr ht).trans heq, fun addr z h => ?_⟩
    rw [hread addr z (Option.some.inj h), State.busRead_port]

/-- Outside DONE every read of the TileSet window returns zeros. -/
theorem State.readWindowBytes_of_ne_done {s : State} (hs : s.state ≠ .done) (a n : Nat) : s.readWindowBytes a n = 0 := by
  induction n generalizing a with
  | zero => rfl
  | succ n ih => simp [State.readWindowBytes, State.tileSetByte_of_ne_done hs, ih]

theorem State.busRead_tileSet_of_ne_done {s : State} (hs : s.state ≠ .done) {addr : Addr} (z : AccessSize)
    (hlo : 0x4000 ≤ addr.toNat) (hhi : addr.toNat ≤ 0x7FFF) : s.busRead addr z = 0 := by
  by_cases hz : z = .reserved
  · rw [hz, State.busRead_reservedSize]
  · rw [s.busRead_tileSet hz (by omega) (by omega), State.readWindowBytes_of_ne_done hs]

/-- Settles O42: no word but CLEAR acts in ERROR, and the window holds the TileSet in DONE only. -/
theorem errorIgnoresEverythingButClear : Obligations.ErrorIgnoresEverythingButClear :=
  ⟨fun _ _ _ hs hp hr hcmd => step_of_error hs hp hr hcmd,
    fun _ _ z hs hlo hhi => State.busRead_tileSet_of_ne_done (by simp [hs]) z hlo hhi⟩

/-! ### The ways out of ERROR (R164) -/

/-- Settles O43: a cycle that is neither reset nor CLEAR stays in ERROR; reset and CLEAR write STATE and every error field. -/
theorem onlyClearAndResetLeaveError : Obligations.OnlyClearAndResetLeaveError := by
  constructor
  · intro s t hs ht hleft
    cases hp : s.pending with
    | nil =>
      obtain rfl := Host.Outcome.next.inj ((step_of_no_cycle hp).symm.trans ht)
      exact absurd hs hleft
    | cons c rest =>
      refine ⟨c, rest, rfl, ?_⟩
      by_contra hother
      obtain ⟨hr, hcmd⟩ := not_or.mp hother
      obtain ⟨r, heq, -⟩ := step_of_error hs hp (Bool.eq_true_of_not_eq_false hr) hcmd
      obtain rfl := Host.Outcome.next.inj (heq.symm.trans ht)
      exact hleft hs
  · rintro s c rest - hp (hr | hcmd)
    · exact ⟨_, step_of_reset hp hr, rfl, rfl, rfl, rfl, rfl⟩
    · exact ⟨_, (step_of_command hp hcmd).trans (performCommand_ok _ .clear _ rfl), rfl, rfl, rfl, rfl, rfl⟩

end Sys2Proof.Machine
end

section
/-! PROOFS. The family of 70_reset_and_hazards.md: no sequence of bus cycles tells the state after CLEAR from the state after reset
(R191). -/

namespace Sys2Proof.Machine

/-! ### A command leaves the port as it is -/

/-- The two states have the same cycles waiting and the same read data. -/
def State.SamePort (s t : State) : Prop := s.pending = t.pending ∧ s.rdata = t.rdata

theorem unlessError_samePort {s e : State} (he : e.SamePort s) : (unlessError s e).SamePort s := by
  obtain ⟨-, heq⟩ | ⟨-, heq⟩ := unlessError_cases s e <;> rw [heq]
  · exact ⟨rfl, rfl⟩
  · exact he

theorem raiseError_samePort (e : JobError) (s : State) : (raiseError e s).SamePort s :=
  ⟨raiseError_pending e s, raiseError_rdata e s⟩

theorem deliverPixel_samePort (c : Color) (s : State) : (deliverPixel c s).SamePort s := by
  obtain ⟨i, -, heq⟩ | ⟨-, -, heq⟩ | ⟨-, -, heq⟩ := deliverPixel_cases c s <;> rw [heq]
  · exact ⟨rfl, rfl⟩
  · exact raiseError_samePort _ s
  · exact ⟨rfl, rfl⟩

theorem exec_samePort {s t : State} {i : Instr} (ht : exec i s = .next t) : t.SamePort s := by
  cases i with
  | nop | clear =>
    obtain rfl := Host.Outcome.next.inj ht
    exact ⟨rfl, rfl⟩
  | setdim w h =>
    obtain rfl := Host.Outcome.next.inj ht
    refine unlessError_samePort ?_
    split
    · exact raiseError_samePort _ s
    · split
      · exact raiseError_samePort _ s
      · exact ⟨rfl, rfl⟩
  | pixel c =>
    obtain rfl := Host.Outcome.next.inj ht
    refine unlessError_samePort ?_
    split
    · exact raiseError_samePort _ s
    · exact deliverPixel_samePort c s
  | encode =>
    obtain rfl := Host.Outcome.next.inj ht
    refine unlessError_samePort ?_
    split
    · exact ⟨rfl, rfl⟩
    · split
      · exact ⟨rfl, rfl⟩
      · exact raiseError_samePort _ s

theorem performCommand_samePort {s t : State} {cmd : Word} (ht : performCommand cmd s = .next t) : t.SamePort s := by
  obtain ⟨i, -, heq⟩ | ⟨why, -, heq⟩ := performCommand_cases cmd s
  · exact exec_samePort (heq.symm.trans ht)
  · obtain rfl := Host.Outcome.next.inj (heq.symm.trans ht)
    exact unlessError_samePort (raiseError_samePort _ s)

/-! ### Twins: states no host read tells apart, now or later -/

/-- Alike states with the same cycles waiting, whose image is complete in LOADED and DONE. The read data may differ: no read returns
it, and the next cycle replaces it. -/
structure State.Twin (s t : State) : Prop where
  alike : s.Alike t
  complete : s.Complete
  pending : s.pending = t.pending

/-- Of the port only the waiting cycles matter. -/
theorem State.Twin.withPort {s t : State} (h : s.Twin t) {p q : List BusCycle} (hpq : p = q) (d e : Option Word) :
    State.Twin { s with pending := p, rdata := d } { t with pending := q, rdata := e } :=
  ⟨{ h.alike with }, h.complete, hpq⟩

/-- Every register and every TileSet byte is the same, so every read is. -/
theorem State.Twin.busRead_eq {s t : State} (h : s.Twin t) (addr : Addr) (z : AccessSize) :
    s.busRead addr z = t.busRead addr z :=
  State.busRead_congr h.alike.readReg_eq (h.alike.tileSetByte_eq h.complete) addr z

/-- After CLEAR any two states are twins, given the same cycles: only the IndexGrid may differ, and the job is closed. -/
theorem clearJob_twin {s t : State} (hp : s.pending = t.pending) : (clearJob s).Twin (clearJob t) :=
  ⟨clearJob_alike s t, complete_of_state (.inl rfl), hp⟩

/-- CLEAR does not change the state after reset (R101, R190). -/
theorem clearJob_resetBlock (s : State) : clearJob (resetBlock s) = resetBlock s := rfl

theorem resetBlock_twin {s t : State} (hp : s.pending = t.pending) : (resetBlock s).Twin (resetBlock t) := by
  rw [← clearJob_resetBlock s, ← clearJob_resetBlock t]
  exact clearJob_twin hp

/-! ### A step keeps twins twins, and both show the same read data -/

/-- Both outcomes are next states, which are twins and show the same read data. -/
def NextTwin (o o' : Host.Outcome State Fault Refusal) : Prop :=
  ∃ t t', o = .next t ∧ o' = .next t' ∧ t.Twin t' ∧ t.rdata = t'.rdata

theorem State.Twin.nextTwin {t t' : State} (h : t.Twin t') (hr : t.rdata = t'.rdata) : NextTwin (.next t) (.next t') :=
  ⟨t, t', rfl, rfl, h, hr⟩

section
variable {s t : State} (h : s.Twin t)
include h

theorem performCommand_nextTwin (hr : s.rdata = t.rdata) (cmd : Word) :
    NextTwin (performCommand cmd s) (performCommand cmd t) := by
  obtain ⟨s', t', hs', ht', halike⟩ := performCommand_nextAlike h.alike cmd
  obtain ⟨hsp, hsr⟩ := performCommand_samePort hs'
  obtain ⟨htp, htr⟩ := performCommand_samePort ht'
  exact ⟨s', t', hs', ht', ⟨halike, performCommand_complete h.complete hs', hsp.trans (h.pending.trans htp.symm)⟩,
    hsr.trans (hr.trans htr.symm)⟩

theorem performTransaction_nextTwin (hr : s.rdata = t.rdata) (tr : Transaction) :
    NextTwin (performTransaction tr s) (performTransaction tr t) := by
  cases tr with
  | read addr z =>
    exact (h.withPort h.pending _ _).nextTwin (congrArg some (h.busRead_eq addr z))
  | write addr z d =>
    by_cases hcmd : z = .four ∧ addr.toNat / 4 = 1
    · obtain ⟨hz, ha⟩ := hcmd
      rw [performTransaction_write_cmd hz ha, performTransaction_write_cmd hz ha]
      exact performCommand_nextTwin h hr d
    · rw [performTransaction_write_ignored hcmd, performTransaction_write_ignored hcmd]
      exact h.nextTwin hr

/-- Every kind of cycle writes the read data afresh, so those of before need not be the same. -/
theorem step_nextTwin : NextTwin (step s) (step t) := by
  cases hs : s.pending with
  | nil =>
    rw [step_of_no_cycle hs, step_of_no_cycle (h.pending.symm.trans hs)]
    exact (h.withPort h.pending none none).nextTwin rfl
  | cons c rest =>
    have ht : t.pending = c :: rest := h.pending.symm.trans hs
    cases hrst : c.rstN with
    | false =>
      rw [step_of_reset hs hrst, step_of_reset ht hrst]
      exact ((resetBlock_twin h.pending).withPort rfl _ _).nextTwin rfl
    | true =>
      cases htr : c.transaction with
      | none =>
        rw [step_of_no_transaction hs hrst htr, step_of_no_transaction ht hrst htr]
        exact (h.withPort rfl none none).nextTwin rfl
      | some tr =>
        rw [step_of_transaction hs hrst htr, step_of_transaction ht hrst htr]
        exact performTransaction_nextTwin (h.withPort rfl none none) rfl tr

end

/-! ### What the pins show -/

theorem readTrace_succ_of_next {s t : State} (ht : step s = .next t) (n : Nat) :
    readTrace (n + 1) s = t.rdata :: readTrace n t := by
  simp only [readTrace, ht]

theorem State.Twin.readTrace_eq {s t : State} (h : s.Twin t) (n : Nat) : readTrace n s = readTrace n t := by
  induction n generalizing s t with
  | zero => rfl
  | succ n ih =>
    obtain ⟨s', t', hs', ht', htwin, hr⟩ := step_nextTwin h
    rw [readTrace_succ_of_next hs', readTrace_succ_of_next ht', hr, ih htwin]

/-- Settles O48: the state after reset is the one CLEAR gives from it, so it is a twin of what CLEAR gives from any other state, and
the pins of twins show the same in every step. -/
theorem clearCannotBeToldFromReset : Obligations.ClearCannotBeToldFromReset := by
  intro s t cycles resets n _ ht
  obtain rfl := Host.Outcome.next.inj ht
  have htwin : (clearJob { s with pending := cycles }).Twin
      (clearJob { State.reset with pending := cycles, resetCount := resets }) := clearJob_twin rfl
  exact htwin.readTrace_eq n

end Sys2Proof.Machine
end

section
/-! PROOFS. The other statements of 30_encoding.md: the decoder and the encoder are each other's inverse (R70 to R75), and the script
lines spell the encodings (R78). -/

namespace Sys2Proof

open Laws (rowOf SelectedByOwnRow.Statement)

/-! ### The words of the instructions, as numbers -/

/-- The word of PIXEL is the sum of its two fields (R73). -/
theorem encode_pixel_toNat (c : Color) : (encode (.pixel c)).toNat = 0x30000000 + c.toNat := by
  have hop : (placeField 28 0x3#4).toNat = 0x30000000 := rfl
  have hcolor : (placeField 0 c).toNat = c.toNat := (placeField_toNat 0 c (by decide)).trans (Nat.mul_one _)
  rw [encode, or_toNat_of_dvd_of_lt (lo := 28) (by omega) (by omega), hop, hcolor]

/-- Every word of R71 to R73 has the fixed bits of its row. -/
theorem rowOf_selects_encode (i : Instr) : (rowOf i).selects (encode i) = true := by
  have hown : SelectedByOwnRow.Statement i := by
    cases i with
    | nop => exact Laws.SelectedByOwnRow.nop
    | clear => exact Laws.SelectedByOwnRow.clear
    | setdim w h => exact Laws.SelectedByOwnRow.setdim w h
    | pixel c => exact Laws.SelectedByOwnRow.pixel c
    | encode => exact Laws.SelectedByOwnRow.encode
  exact hown.2

/-- The operands placed in a word are read back from it (R74). -/
theorem assembleOperands_encode (i : Instr) : assembleOperands (rowOf i).mnemonic (encode i) = i := by
  cases i with
  | nop | clear | encode => rfl
  | setdim w h =>
    have hword := encode_setdim_toNat w h
    have hwidth : widthField (encode (.setdim w h)) = w := (widthField_eq_iff _ w).mpr (by omega)
    have hheight : heightField (encode (.setdim w h)) = h := (heightField_eq_iff _ h).mpr (by omega)
    exact congrArg₂ Instr.setdim hwidth hheight
  | pixel c =>
    have hword := encode_pixel_toNat c
    exact congrArg Instr.pixel ((colorField_eq_iff _ c).mpr (by omega))

@[simp] theorem decode_encode (i : Instr) : decode (encode i) = .ok i :=
  (decode_eq_ok_iff _ i).mpr ⟨rowOf_selects_encode i, assembleOperands_encode i⟩

/-- Settles O1: the word is selected by its instruction's row, and the operands are read back from it. -/
theorem decodeOfEncodeIsTheInstruction : Obligations.DecodeOfEncodeIsTheInstruction := decode_encode

/-- Different instructions have different words. -/
theorem encode_injective : Function.Injective encode := fun i j hij =>
  Decoded.ok.inj ((decode_encode i).symm.trans ((congrArg decode hij).trans (decode_encode j)))

/-- The fixed bits of the row and the operands leave no bit of a legal word open. -/
theorem encode_of_decode {cmd : Word} {i : Instr} (hd : decode cmd = .ok i) : encode i = cmd := by
  obtain ⟨hrow, hoperands⟩ := (decode_eq_ok_iff cmd i).mp hd
  cases i with
  | nop | clear | encode =>
    exact BitVec.toNat_inj.mp ((OpcodeRow.selects_formatZ_iff rfl cmd).mp hrow).symm
  | setdim w h =>
    obtain ⟨hop, hrsv, hrsv'⟩ := (setdimRow_selects_iff w h cmd).mp hrow
    obtain ⟨hw, hh⟩ := Instr.setdim.inj hoperands
    have hwidth := (widthField_eq_iff cmd w).mp hw
    have hheight := (heightField_eq_iff cmd h).mp hh
    have hword := encode_setdim_toNat w h
    exact BitVec.toNat_inj.mp (by omega)
  | pixel c => exact (eq_encode_of_decode_pixel hd).symm

/-- Settles O2: a legal word is the sum of its row's opcode and its operands. -/
theorem encodeOfDecodeIsTheWord : Obligations.EncodeOfDecodeIsTheWord := fun _ _ => encode_of_decode

/-- Settles O3: the rows differ in OP, which every row fixes. -/
theorem noWordMatchesTwoRows : Obligations.NoWordMatchesTwoRows :=
  fun _ h₁ _ h₂ _ hs₁ hs₂ => OpcodeRow.eq_of_selects h₁ h₂ hs₁ hs₂

/-- Settles O6: each word is decoded. -/
theorem sampleWordsDecodeAsTheSpecSpells : Obligations.SampleWordsDecodeAsTheSpecSpells := by
  unfold Obligations.SampleWordsDecodeAsTheSpecSpells
  decide

/-! ### The script lines (R78) -/

/-- A number that fits its field is placed by shifting it. -/
theorem placeField_ofNat {n v : Nat} (lo : Nat) (hv : v < 2 ^ n) (hn : n ≤ 32) :
    placeField lo (BitVec.ofNat n v) = BitVec.ofNat 32 (v <<< lo) := by
  rw [placeField, BitVec.setWidth_ofNat_of_le_of_lt hn hv]
  apply BitVec.eq_of_toNat_eq
  simp [Nat.shiftLeft_eq, Nat.mod_mul_mod]

end Sys2Proof

namespace Sys2Proof.Machine

theorem setdimScriptWord_eq_encode {w h : Nat} (hw : w ≤ 511) (hh : h ≤ 511) :
    setdimScriptWord w h = encode (.setdim (BitVec.ofNat 9 w) (BitVec.ofNat 9 h)) := by
  rw [encode, placeField_ofNat 16 (by omega) (by decide), placeField_ofNat 0 (by omega) (by decide), setdimScriptWord,
    BitVec.ofNat_or, BitVec.ofNat_or]
  rfl

theorem pixelScriptWord_eq_encode {c : Nat} (hc : c ≤ 0xFFFFFF) :
    pixelScriptWord c = encode (.pixel (BitVec.ofNat 24 c)) := by
  rw [encode, placeField_ofNat 0 (by omega) (by decide), pixelScriptWord, BitVec.ofNat_or]
  rfl

theorem lineTransactions_setdim {w h : Nat} (hw : w ≤ 511) (hh : h ≤ 511) :
    lineTransactions (.setdim w h) = some [.command (setdimScriptWord w h)] :=
  if_pos (by simp [HostLine.wellFormed, HostLine.dimFits, hw, hh])

theorem lineTransactions_of_illFormed {l : HostLine} (hl : l.wellFormed = false) : lineTransactions l = none :=
  if_neg (by simp [hl])

/-- Settles O7: in range, the numbers of a line fill the fields of the encoding; out of range, the line is ill formed. -/
theorem scriptLinesSpellTheEncodings : Obligations.ScriptLinesSpellTheEncodings := by
  refine ⟨fun w h hw hh => ?_, fun c hc => ?_, rfl, rfl, rfl, fun w h hbad => ?_, fun c hc => ?_⟩
  · rw [lineTransactions_setdim hw hh, setdimScriptWord_eq_encode hw hh]
    rfl
  · rw [lineTransactions_pixel hc, pixelScriptWord_eq_encode hc]
    rfl
  · refine lineTransactions_of_illFormed ?_
    simp only [HostLine.wellFormed, HostLine.dimFits, Bool.and_eq_false_iff, decide_eq_false_iff_not]
    omega
  · exact lineTransactions_of_illFormed (decide_eq_false (by omega))

end Sys2Proof.Machine
end

section
/-! PROOFS. The other statements of 41_palette_quantizer.md about one PIXEL (R121): a known colour, a new one, a fifth one, and PIXEL
outside LOADING. -/

namespace Sys2Proof.Machine

/-! ### An accepted pixel, whatever became of the palette before it -/

/-- The states differ in the palette alone, as a state and the one with a new colour recorded do. -/
def State.SameButPalette (s p : State) : Prop := ∃ n colors, p = { s with palN := n, palColor := colors }

theorem State.SameButPalette.refl (s : State) : s.SameButPalette s := ⟨s.palN, s.palColor, rfl⟩

theorem addColor_sameButPalette (s : State) (c : Color) : s.SameButPalette (s.addColor c) := ⟨_, _, rfl⟩

/-- A received pixel lies in the image. -/
theorem received_in_image {s : State} (hinv : s.Inv) {y x : Nat} (hr : s.received y x) :
    y < s.h.toNat ∧ x < s.w.toNat := by
  obtain ⟨hx, hlt⟩ := hr
  have hnpix : y * s.w.toNat < s.h.toNat * s.w.toNat :=
    calc y * s.w.toNat ≤ y * s.w.toNat + x := Nat.le_add_right _ _
      _ < s.npix := hlt.trans_le hinv.pixcount_le
      _ = s.h.toNat * s.w.toNat := Nat.mul_comm _ _
  exact ⟨Nat.lt_of_mul_lt_mul_right hnpix, hx⟩

section
variable {s p : State} (hsame : s.SameButPalette p)
include hsame

theorem acceptPixel_cursor_cell (i : PalIndex) : (acceptPixel i p).cell s.curY s.curX = i := by
  obtain ⟨n, colors, rfl⟩ := hsame
  exact (acceptPixel_cell _ i _ _).trans (if_pos rfl)

/-- The cells of two positions of the grid are not the same cell. -/
theorem acceptPixel_other_cell (hinv : s.Inv) (hl : s.state = .loading) (i : PalIndex) {y x : Nat} (hy : y < 256)
    (hx : x < 256) (hne : ¬ (y = s.curY ∧ x = s.curX)) : (acceptPixel i p).cell y x = s.cell y x := by
  obtain ⟨hX, hY, hw, hh, -⟩ := cursor_bounds s hinv hl
  have hkey : cellKey s.curY s.curX ≠ cellKey y x := fun heq => by
    obtain ⟨rfl, rfl⟩ := cellKey_inj (by omega) (by omega) hy hx heq
    exact hne ⟨rfl, rfl⟩
  obtain ⟨n, colors, rfl⟩ := hsame
  exact (acceptPixel_cell _ i y x).trans (if_neg hkey)

/-- The counter does not wrap, and the pixel that makes it W times H completes the image. -/
theorem acceptPixel_counts (hinv : s.Inv) (hl : s.state = .loading) (i : PalIndex) :
    (acceptPixel i p).pixcount.toNat = s.pixcount.toNat + 1 ∧
    (acceptPixel i p).state = if s.pixcount.toNat + 1 = s.npix then .loaded else .loading := by
  obtain ⟨n, colors, rfl⟩ := hsame
  rw [← pixcount_succ s hinv hl, ← hl]
  exact ⟨rfl, rfl⟩

end

/-! ### What PIXEL does with a colour in LOADING -/

theorem exec_pixel_of_known {s : State} (hinv : s.Inv) (hl : s.state = .loading) {c : Color} {i : PalIndex}
    (hi : i.toNat < s.palN.toNat) (hc : s.palEntry i = c) : exec (.pixel c) s = .next (acceptPixel i s) := by
  have hhit : s.lookup c = some i := (lookup_eq_some_iff hinv c i).mpr ⟨(palValid_iff s i).mpr hi, hc⟩
  simp only [exec_pixel_of_loading hl, deliverPixel, hhit]

theorem exec_pixel_of_new {s : State} (hl : s.state = .loading) {c : Color} (hroom : s.palN.toNat < 4)
    (hnew : ∀ i : PalIndex, i.toNat < s.palN.toNat → s.palEntry i ≠ c) :
    exec (.pixel c) s = .next (acceptPixel s.nextIndex (s.addColor c)) := by
  have hmiss : s.lookup c = none := (lookup_eq_none_iff s c).mpr fun i hi => hnew i ((palValid_iff s i).mp hi)
  simp only [exec_pixel_of_loading hl, deliverPixel, hmiss, if_neg hroom.ne]

/-- Settles O19: the lookup hits, and the pixel is accepted with the index it found. -/
theorem pixelOfAKnownColourReusesItsIndex : Obligations.PixelOfAKnownColourReusesItsIndex := by
  intro s c i hinv hl hi hc
  have hsame := State.SameButPalette.refl s
  obtain ⟨hcount, hstate⟩ := acceptPixel_counts hsame hinv hl i
  exact ⟨_, exec_pixel_of_known hinv hl hi hc, acceptPixel_cursor_cell hsame i,
    fun y x hy hx hne => acceptPixel_other_cell hsame hinv hl i hy hx hne, hcount, hstate,
    rfl, rfl, rfl, rfl, rfl, rfl, rfl, rfl, rfl, rfl, rfl⟩

/-- Settles O20: the lookup misses, the colour is recorded, and the pixel is accepted with the index of the new entry. -/
theorem pixelOfANewColourTakesTheNextIndex : Obligations.PixelOfANewColourTakesTheNextIndex := by
  intro s c hinv hl hroom hnew
  have hsame := addColor_sameButPalette s c
  obtain ⟨hcount, hstate⟩ := acceptPixel_counts hsame hinv hl s.nextIndex
  exact ⟨_, exec_pixel_of_new hl hroom hnew, addColor_palN_toNat s c hroom, addColor_palEntry s c hroom,
    (congrArg BitVec.toNat (acceptPixel_cursor_cell hsame _)).trans (nextIndex_toNat s hroom),
    fun y x hy hx hne => acceptPixel_other_cell hsame hinv hl _ hy hx hne, hcount, hstate,
    rfl, rfl, rfl, rfl, rfl, rfl, rfl, rfl, rfl⟩

/-- Settles O21: the lookup misses and there is no entry left; the cursor lies in the image, so its position fits the fields. -/
theorem fifthColourRecordsPixelAndColour : Obligations.FifthColourRecordsPixelAndColour := by
  intro s c hinv hl hn hc
  obtain ⟨hX, hY, hw, hh, -⟩ := cursor_bounds s hinv hl
  have hXfits : (BitVec.ofNat 8 s.curX).toNat = s.curX := Nat.mod_eq_of_lt (by omega)
  have hYfits : (BitVec.ofNat 8 s.curY).toNat = s.curY := Nat.mod_eq_of_lt (by omega)
  exact ⟨_, exec_pixel_raises_tooManyColors hl hn hc, hXfits, hYfits, rfl⟩

/-- Settles O22: outside LOADING a PIXEL raises SEQUENCE, and ERROR ignores it. -/
theorem pixelOutsideLoadingRaisesSequence : Obligations.PixelOutsideLoadingRaisesSequence := by
  refine fun s c => ⟨fun hs => exec_raises_sequence ?_ (.inr (.inl ⟨?_, c, rfl⟩)), fun hs => exec_of_error hs (by simp)⟩
  all_goals rcases hs with hs | hs | hs <;> simp [hs]

/-- Settles O23: with no pixel received there is no entry yet, so the colour is new and takes index 0. -/
theorem firstPixelTakesIndexZero : Obligations.FirstPixelTakesIndexZero := by
  intro s c hinv hl hp
  have hcount : s.pixcount.toNat = 0 := by simp [hp]
  have hempty : s.palN.toNat = 0 := by have := hinv.palN_le_pixcount; omega
  obtain ⟨t, ht, hpalN, hentry, hcell, -, hnext, -⟩ :=
    pixelOfANewColourTakesTheNextIndex s c hinv hl (by omega) fun i hi => by omega
  refine ⟨t, ht, by simp [hentry, hempty], BitVec.eq_of_toNat_eq (by simp [hpalN, hempty]), BitVec.eq_of_toNat_eq ?_,
    BitVec.eq_of_toNat_eq (by simp [hnext, hcount])⟩
  simpa [hcount, hempty] using hcell

end Sys2Proof.Machine
end

section
/-! PROOFS. What a delivered word and a step can do, said once with their guards; and what follows for the elements a command leaves
alone (10_state.md sections 3 and 4, 40_setup.md, 42_tile_encoder.md). -/

namespace Sys2Proof.Machine

/-! ### The effects of a word and of a step -/

/-- What the delivered word `cmd` may make of `s` (R24, R76, R100 to R102, R121, R140). -/
inductive WordEffect (s : State) (cmd : Word) : State → Prop
  | unchanged : WordEffect s cmd s
  | raised (e : JobError) (hs : s.state ≠ .error)
      (hcmd : e.errCode = .tooManyColors → ∃ c, cmd = encode (.pixel c)) : WordEffect s cmd (raiseError e s)
  | cleared (hcmd : cmd = encode .clear) : WordEffect s cmd (clearJob s)
  | opened (w h : Dim) (hcmd : cmd = encode (.setdim w h)) (hs : s.state = .idle) (hw : dimOk w = true)
      (hh : dimOk h = true) : WordEffect s cmd (openJob w h s)
  | reused (c : Color) (i : PalIndex) (hcmd : cmd = encode (.pixel c)) (hs : s.state = .loading)
      (hc : s.lookup c = some i) : WordEffect s cmd (acceptPixel i s)
  | recorded (c : Color) (hcmd : cmd = encode (.pixel c)) (hs : s.state = .loading) (hc : s.lookup c = none)
      (hroom : s.palN.toNat ≠ 4) : WordEffect s cmd (acceptPixel s.nextIndex (s.addColor c))
  | encoded (hcmd : cmd = encode .encode) (hs : s.state = .loaded) : WordEffect s cmd { s with state := .done }

/-- A command has one of the effects of its word. -/
theorem exec_wordEffect {s t : State} {i : Instr} (ht : exec i s = .next t) : WordEffect s (encode i) t := by
  cases i with
  | nop =>
    obtain rfl := Host.Outcome.next.inj ht
    exact .unchanged
  | clear =>
    obtain rfl := Host.Outcome.next.inj ht
    exact .cleared rfl
  | setdim w h =>
    obtain ⟨-, heq⟩ | ⟨hs, -, heq⟩ | ⟨hs, -, heq⟩ | ⟨hs, hw, hh, heq⟩ := execSetdim_cases w h s
    all_goals obtain rfl := Host.Outcome.next.inj (heq.symm.trans ht)
    · exact .unchanged
    · exact .raised _ hs (by simp [JobError.errCode])
    · exact .raised _ (by simp [hs]) (by simp [JobError.errCode])
    · exact .opened w h rfl hs hw hh
  | pixel c =>
    obtain ⟨-, heq⟩ | ⟨hs, -, heq⟩ | ⟨hs, heq⟩ := execPixel_cases c s
    all_goals obtain rfl := Host.Outcome.next.inj (heq.symm.trans ht)
    · exact .unchanged
    · exact .raised _ hs (by simp [JobError.errCode])
    · obtain ⟨i, hc, heq⟩ | ⟨-, -, heq⟩ | ⟨hc, hroom, heq⟩ := deliverPixel_cases c s <;> rw [heq]
      · exact .reused c i rfl hs hc
      · exact .raised _ (by simp [hs]) fun _ => ⟨c, rfl⟩
      · exact .recorded c rfl hs hc hroom
  | encode =>
    obtain ⟨-, heq⟩ | ⟨hs, heq⟩ | ⟨-, heq⟩ | ⟨hs, heq⟩ := execEncode_cases s
    all_goals obtain rfl := Host.Outcome.next.inj (heq.symm.trans ht)
    · exact .unchanged
    · exact .encoded rfl hs
    · exact .unchanged
    · exact .raised _ (by rcases hs with hs | hs <;> simp [hs]) (by simp [JobError.errCode])

/-- A delivered word, legal or not, has one of the effects. -/
theorem performCommand_wordEffect {s t : State} {cmd : Word} (ht : performCommand cmd s = .next t) :
    WordEffect s cmd t := by
  obtain ⟨i, hd, heq⟩ | ⟨why, -, heq⟩ := performCommand_cases cmd s
  · exact encode_of_decode hd ▸ exec_wordEffect (heq.symm.trans ht)
  · obtain rfl := Host.Outcome.next.inj (heq.symm.trans ht)
    obtain ⟨-, heq⟩ | ⟨hs, heq⟩ := illegalWord_cases s <;> rw [heq]
    · exact .unchanged
    · exact .raised _ hs (by simp [JobError.errCode])

/-- A step is a cycle in reset, or changes the port alone, or takes a cycle that delivers a word and performs it on a state that
differs in the port alone. -/
theorem step_effect {s t : State} (ht : step s = .next t) :
    (∃ c rest, s.pending = c :: rest ∧ c.rstN = false ∧
      t = { resetBlock { s with pending := rest } with rdata := readDataInReset c }) ∨
    s.SameButPort t ∨
    (∃ c rest cmd, s.pending = c :: rest ∧ commandOf c = some cmd ∧
      WordEffect { s with pending := rest, rdata := none } cmd t) := by
  obtain ⟨-, heq⟩ | ⟨c, rest, hp, hr, heq⟩ | ⟨c, rest, -, -, -, heq⟩ | ⟨c, rest, tr, hp, hr, htr, heq⟩ := step_cases s
  · exact .inr (.inl ⟨_, _, (Host.Outcome.next.inj (heq.symm.trans ht)).symm⟩)
  · exact .inl ⟨c, rest, hp, hr, (Host.Outcome.next.inj (heq.symm.trans ht)).symm⟩
  · exact .inr (.inl ⟨_, _, (Host.Outcome.next.inj (heq.symm.trans ht)).symm⟩)
  · have htr' := heq.symm.trans ht
    obtain ⟨a, z, -, heq⟩ | ⟨a, d, rfl, ha, heq⟩ | ⟨a, z, d, -, -, heq⟩ :=
      performTransaction_cases tr { s with pending := rest, rdata := none }
    · exact .inr (.inl ⟨_, _, (Host.Outcome.next.inj (heq.symm.trans htr')).symm⟩)
    · exact .inr (.inr ⟨c, rest, d, hp, (commandOf_eq_some_iff c d).mpr ⟨hr, a, htr, ha⟩,
        performCommand_wordEffect (heq.symm.trans htr')⟩)
    · exact .inr (.inl ⟨_, _, (Host.Outcome.next.inj (heq.symm.trans htr')).symm⟩)

/-! ### What the setup commands and ENCODE leave alone -/

/-- A word that is no PIXEL writes nothing outside the job's registers. -/
theorem WordEffect.cells_eq_of_not_pixel {s t : State} {cmd : Word} (h : WordEffect s cmd t)
    (hcmd : ∀ c, cmd ≠ encode (.pixel c)) :
    (∀ y x, t.cell y x = s.cell y x) ∧ t.pending = s.pending ∧ t.rdata = s.rdata ∧ t.resetCount = s.resetCount := by
  cases h with
  | unchanged | cleared | opened | encoded => exact ⟨State.cell_congr rfl rfl, rfl, rfl, rfl⟩
  | raised e => exact ⟨State.cell_congr (by simp) (by simp), by simp⟩
  | reused c _ hc | recorded c hc => exact absurd hc (hcmd c)

/-- A word that is neither a PIXEL nor CLEAR leaves the palette and the error information as they are. -/
theorem WordEffect.palette_eq {s t : State} {cmd : Word} (h : WordEffect s cmd t)
    (hcmd : ∀ c, cmd ≠ encode (.pixel c)) (hclear : cmd ≠ encode .clear) :
    t.palN = s.palN ∧ t.palColor = s.palColor ∧ t.errX = s.errX ∧ t.errY = s.errY ∧ t.errClr = s.errClr := by
  cases h with
  | unchanged | opened | encoded => exact ⟨rfl, rfl, rfl, rfl, rfl⟩
  | cleared hc => exact absurd hc hclear
  | raised e _ hpixel =>
    have hcode : e.errCode ≠ .tooManyColors := fun he => (hpixel he).elim hcmd
    exact ⟨by simp, by simp, raiseError_info_unchanged e s hcode⟩
  | reused c _ hc | recorded c hc => exact absurd hc (hcmd c)

/-- A word that is neither a PIXEL, nor CLEAR, nor a SETDIM leaves the dimensions and the count as they are. -/
theorem WordEffect.counters_eq {s t : State} {cmd : Word} (h : WordEffect s cmd t)
    (hcmd : ∀ c, cmd ≠ encode (.pixel c)) (hclear : cmd ≠ encode .clear) (hdim : ∀ w h, cmd ≠ encode (.setdim w h)) :
    t.w = s.w ∧ t.h = s.h ∧ t.pixcount = s.pixcount := by
  cases h with
  | unchanged | encoded => exact ⟨rfl, rfl, rfl⟩
  | cleared hc => exact absurd hc hclear
  | opened w h hc => exact absurd hc (hdim w h)
  | raised e => simp
  | reused c _ hc | recorded c hc => exact absurd hc (hcmd c)

/-- Settles O17: one lemma for each group of elements, as different commands have different words. -/
theorem setupAndEncodeLeaveEveryCell : Obligations.SetupAndEncodeLeaveEveryCell := by
  intro i s t ht
  have heffect := exec_wordEffect ht
  refine ⟨fun hi => heffect.cells_eq_of_not_pixel ?_, fun hi => heffect.palette_eq ?_ ?_,
    fun hi => heffect.counters_eq ?_ ?_ ?_⟩
  all_goals
    intros
    rw [encode_injective.ne_iff]
    rintro rfl
    simp at hi

/-! ### What a step leaves alone -/

/-- A valid entry keeps its colour under every word but CLEAR: a new colour takes the entry after the valid ones. -/
theorem WordEffect.entry_kept {s t : State} {cmd : Word} (h : WordEffect s cmd t) (hn : s.palN.toNat ≤ 4) {i : PalIndex}
    (hi : i.toNat < s.palN.toNat) :
    (i.toNat < t.palN.toNat ∧ t.palEntry i = s.palEntry i) ∨ cmd = encode .clear := by
  cases h with
  | unchanged | opened | reused | encoded => exact .inl ⟨hi, rfl⟩
  | raised e => exact .inl (by simp [State.palEntry, hi])
  | cleared hc => exact .inr hc
  | recorded c _ _ _ hroom =>
    have hlt : s.palN.toNat < 4 := by omega
    refine .inl ⟨?_, (addColor_palEntry s c hlt i).trans (if_neg hi.ne)⟩
    rw [acceptPixel_palN, addColor_palN_toNat s c hlt]
    omega

/-- Settles O25: a step that is neither reset nor CLEAR has an effect that keeps every valid entry. -/
theorem validPaletteEntriesStayUntilClearOrReset : Obligations.ValidPaletteEntriesStayUntilClearOrReset := by
  intro s t i hinv ht hi
  obtain ⟨c, rest, hp, hr, -⟩ | ⟨p, d, rfl⟩ | ⟨c, rest, cmd, hp, hcmd, heffect⟩ := step_effect ht
  · exact .inr ⟨c, rest, hp, .inl hr⟩
  · exact .inl ⟨hi, rfl⟩
  · refine (heffect.entry_kept hinv.palN_le hi).imp id fun hclear => ⟨c, rest, hp, .inr ?_⟩
    rw [hcmd, hclear]
    rfl

/-- A word changes a cell only if it is a PIXEL in LOADING and the cell has the number of the cursor's. -/
theorem WordEffect.cell_changed {s t : State} {cmd : Word} (h : WordEffect s cmd t) {y x : Nat}
    (hne : t.cell y x ≠ s.cell y x) :
    s.state = .loading ∧ (∃ c, cmd = encode (.pixel c)) ∧ cellKey s.curY s.curX = cellKey y x := by
  cases h with
  | unchanged | cleared | opened | encoded => exact absurd (State.cell_congr rfl rfl y x) hne
  | raised e => exact absurd (State.cell_congr (by simp) (by simp) y x) hne
  | reused c i hc hs =>
    refine ⟨hs, ⟨c, hc⟩, ?_⟩
    by_contra hkey
    exact hne ((acceptPixel_cell s i y x).trans (if_neg hkey))
  | recorded c hc hs =>
    refine ⟨hs, ⟨c, hc⟩, ?_⟩
    by_contra hkey
    exact hne ((acceptPixel_cell (s.addColor c) s.nextIndex y x).trans (if_neg hkey))

/-- Cells with one number are one position of the grid. -/
theorem mod_eq_of_cellKey_eq {y x y' x' : Nat} (h : cellKey y x = cellKey y' x') :
    y' % 256 = y % 256 ∧ x' % 256 = x % 256 := by
  simp only [cellKey, Config.maxDim] at h
  omega

/-- Settles O26: but for reset only a delivered word writes a cell, and only the PIXEL at the cursor. -/
theorem onlyThePixelAtTheCursorWritesItsCell : Obligations.OnlyThePixelAtTheCursorWritesItsCell := by
  intro s t y x ht hne
  obtain ⟨c, rest, hp, hr, -⟩ | hport | ⟨c, rest, cmd, hp, hcmd, heffect⟩ := step_effect ht
  · exact ⟨c, rest, hp, .inl hr⟩
  · exact absurd (hport.cell_eq y x) hne
  · obtain ⟨hs, ⟨k, rfl⟩, hkey⟩ := heffect.cell_changed hne
    exact ⟨c, rest, hp, .inr ⟨hs, ⟨k, hcmd⟩, mod_eq_of_cellKey_eq hkey⟩⟩

/-- A word changes W or H only if it is CLEAR, or a SETDIM of legal dimensions in IDLE, which are W and H then. -/
theorem WordEffect.dim_changed {s t : State} {cmd : Word} (h : WordEffect s cmd t) (hne : t.w ≠ s.w ∨ t.h ≠ s.h) :
    cmd = encode .clear ∨
      (s.state = .idle ∧ legalDim t.w ∧ legalDim t.h ∧ cmd = encode (.setdim t.w t.h)) := by
  cases h with
  | cleared hc => exact .inl hc
  | opened w h hc hs hw hh => exact .inr ⟨hs, (dimOk_iff_legalDim w).mp hw, (dimOk_iff_legalDim h).mp hh, hc⟩
  | unchanged | raised | reused | recorded | encoded => simp at hne

/-- Settles O39: but for reset only a delivered word changes W or H, and only CLEAR or an accepted SETDIM. -/
theorem dimChangesOnlyBySetdimClearOrReset : Obligations.DimChangesOnlyBySetdimClearOrReset := by
  intro s t ht hne
  obtain ⟨c, rest, hp, hr, -⟩ | ⟨p, d, rfl⟩ | ⟨c, rest, cmd, hp, hcmd, heffect⟩ := step_effect ht
  · exact ⟨c, rest, hp, .inl hr⟩
  · simp at hne
  · obtain rfl | ⟨hs, hw, hh, rfl⟩ := heffect.dim_changed hne
    · exact ⟨c, rest, hp, .inr (.inl hcmd)⟩
    · exact ⟨c, rest, hp, .inr (.inr ⟨hs, hw, hh, hcmd⟩)⟩

end Sys2Proof.Machine
end

section
/-! PROOFS. The other statements of 10_state.md section 5: the invariant holds at reset and every step keeps it (R42), and no host read
depends on a cell that no received pixel wrote (R44, I1). -/

namespace Sys2Proof.Machine

/-! ### The invariant holds where the job is abandoned (R43, R101) -/

/-- A state with the values of the reset table meets the invariant, whatever its cells hold. -/
theorem clearJob_inv {s : State} (hwf : Memory.wf s.idx) : (clearJob s).Inv where
  memory_wf := hwf
  palN_le := by simp
  colors_distinct := by simp [State.palValid]
  pixcount_le := by simp
  loading_lt := by simp
  complete := by simp
  idle_zero := by simp
  open_dims := by simp [State.jobOpen]
  error_dims := by simp
  some_color := by simp
  palN_le_pixcount := by simp
  cells_valid := by simp [State.jobOpen]
  err_iff := by simp
  err_info := by simp

/-- The state after reset is one that CLEAR does not change, with the empty memory. -/
theorem resetBlock_inv (s : State) : (resetBlock s).Inv := by
  rw [← clearJob_resetBlock s]
  exact clearJob_inv Memory.wf_nil

/-- Settles O45: the state after reset is what CLEAR leaves of it. -/
theorem invariantHoldsAtReset : Obligations.InvariantHoldsAtReset :=
  clearJob_inv (s := State.reset) Memory.wf_nil

/-! ### SETDIM and ENCODE keep it -/

/-- A job opens in IDLE, where palette and counters are 0, with no pixel received. -/
theorem openJob_inv {s : State} (hinv : s.Inv) (hs : s.state = .idle) {w h : Dim} (hw : dimOk w = true)
    (hh : dimOk h = true) : (openJob w h s).Inv := by
  obtain ⟨-, -, -, hpalN, herr⟩ := hinv.idle_zero hs
  obtain ⟨hwidth, -⟩ := (dimOk_iff w).mp hw
  obtain ⟨hheight, -⟩ := (dimOk_iff h).mp hh
  have hpixels : 0 < w.toNat * h.toNat := Nat.mul_pos (by omega) (by omega)
  exact {
    memory_wf := hinv.memory_wf
    palN_le := hinv.palN_le
    colors_distinct := hinv.colors_distinct
    pixcount_le := by simp
    loading_lt := fun _ => hpixels
    complete := by simp
    idle_zero := by simp
    open_dims := fun _ => ⟨hw, hh⟩
    error_dims := by simp
    some_color := by simp
    palN_le_pixcount := by simp [hpalN]
    cells_valid := by simp [State.received]
    err_iff := by simp [herr]
    err_info := hinv.err_info }

/-- ENCODE writes STATE only, and LOADED and DONE are alike to every clause. -/
theorem done_inv_of_loaded {s : State} (hinv : s.Inv) (hs : s.state = .loaded) : State.Inv { s with state := .done } := by
  have hopen : s.jobOpen = true := (jobOpen_iff s).mpr (.inr (.inl hs))
  exact { hinv with
    loading_lt := by simp
    complete := fun _ => hinv.complete (.inl hs)
    idle_zero := by simp
    open_dims := fun _ => hinv.open_dims hopen
    error_dims := by simp
    some_color := fun _ => hinv.some_color hopen
    cells_valid := fun _ => hinv.cells_valid hopen
    err_iff := by simpa [hs] using hinv.err_iff }

/-! ### An accepted pixel keeps it -/

/-- `p` is `s` with a palette on which a pixel may be accepted with index `i`: its valid entries are distinct and at most four, none is
lost, with the pixel there are no more entries than pixels, and entry `i` is valid (R27, R121). -/
structure State.PaletteReady (s p : State) (i : PalIndex) : Prop where
  sameButPalette : s.SameButPalette p
  palN_le : p.palN.toNat ≤ 4
  colors_distinct : ∀ j k : PalIndex, p.palValid j → p.palValid k → p.palEntry j = p.palEntry k → j = k
  grows : s.palN.toNat ≤ p.palN.toNat
  palN_le_pixcount_succ : p.palN.toNat ≤ s.pixcount.toNat + 1
  index_valid : p.palValid i = true

/-- The palette as it is, with the index the lookup found. -/
theorem paletteReady_of_hit {s : State} (hinv : s.Inv) {c : Color} {i : PalIndex} (hc : s.lookup c = some i) :
    s.PaletteReady s i :=
  ⟨.refl s, hinv.palN_le, hinv.colors_distinct, Nat.le_refl _, Nat.le_succ_of_le hinv.palN_le_pixcount,
    (lookup_some s c i hc).1⟩

/-- A colour that the lookup missed differs from every valid entry, so it may stand in the next one. -/
theorem paletteReady_of_miss {s : State} (hinv : s.Inv) {c : Color} (hc : s.lookup c = none) (hroom : s.palN.toNat ≠ 4) :
    s.PaletteReady (s.addColor c) s.nextIndex := by
  have hlt : s.palN.toNat < 4 := Nat.lt_of_le_of_ne hinv.palN_le hroom
  have hpalN := addColor_palN_toNat s c hlt
  have hnext := nextIndex_toNat s hlt
  have hentry := addColor_palEntry s c hlt
  have hcount := hinv.palN_le_pixcount
  have hold {j : PalIndex} (hj : (s.addColor c).palValid j = true) (hne : j.toNat ≠ s.palN.toNat) : s.palValid j = true := by
    rw [palValid_iff] at hj ⊢
    omega
  refine ⟨addColor_sameButPalette s c, by omega, fun j k hj hk heq => ?_, by omega, by omega,
    (palValid_iff _ _).mpr (by omega)⟩
  rw [hentry, hentry] at heq
  split at heq <;> split at heq
  · exact BitVec.eq_of_toNat_eq (by omega)
  · next hk' => exact absurd heq.symm (lookup_none s c hc k (hold hk hk'))
  · next hj' _ => exact absurd heq (lookup_none s c hc j (hold hj hj'))
  · next hj' hk' => exact hinv.colors_distinct j k (hold hj hj') (hold hk hk') heq

/-- The cell at the cursor takes a valid index, and the pixels received before keep theirs. -/
theorem acceptPixel_cells_valid {s p : State} {i : PalIndex} (hinv : s.Inv) (hl : s.state = .loading)
    (hp : s.PaletteReady p i) {y x : Nat} (hr : (acceptPixel i p).received y x) :
    ∃ v, (acceptPixel i p).idx.read? (cellKey y x) = some v ∧ p.palValid v = true := by
  rw [acceptPixel_idx, Memory.read?_write]
  split
  · exact ⟨i, rfl, hp.index_valid⟩
  · next hkey =>
    obtain hbefore | ⟨rfl, rfl⟩ := received_acceptPixel hr
    · have hgrows := hp.grows
      obtain ⟨n, colors, rfl⟩ := hp.sameButPalette
      obtain ⟨v, hv, hvalid⟩ := hinv.cells_valid ((jobOpen_iff s).mpr (.inl hl)) y x hbefore
      exact ⟨v, hv, (palValid_iff _ v).mpr (((palValid_iff s v).mp hvalid).trans_le hgrows)⟩
    · exact absurd rfl hkey

/-- Where an accepted pixel leaves the job: more pixels to come, or the image complete. -/
theorem acceptPixel_loading_or_loaded {s p : State} (hsame : s.SameButPalette p) (hinv : s.Inv) (hl : s.state = .loading)
    (i : PalIndex) :
    ((acceptPixel i p).state = .loading ∧ (acceptPixel i p).pixcount.toNat < s.npix) ∨
    ((acceptPixel i p).state = .loaded ∧ (acceptPixel i p).pixcount.toNat = s.npix) := by
  obtain ⟨hcount, hstate⟩ := acceptPixel_counts hsame hinv hl i
  have hlt := hinv.loading_lt hl
  by_cases hlast : s.pixcount.toNat + 1 = s.npix
  · exact .inr ⟨hstate.trans (if_pos hlast), hcount.trans hlast⟩
  · exact .inl ⟨hstate.trans (if_neg hlast), by omega⟩

/-- The pixel is counted, its cell is written, and the palette is one it may be accepted on; nothing else changes. -/
theorem acceptPixel_inv {s p : State} {i : PalIndex} (hinv : s.Inv) (hl : s.state = .loading) (hp : s.PaletteReady p i) :
    (acceptPixel i p).Inv := by
  have hcells {y x : Nat} := acceptPixel_cells_valid (y := y) (x := x) hinv hl hp
  obtain ⟨hsame, hpalN, hdistinct, -, hone, hindex⟩ := hp
  obtain ⟨hcount, -⟩ := acceptPixel_counts hsame hinv hl i
  have hstates := acceptPixel_loading_or_loaded hsame hinv hl i
  have hidle : (acceptPixel i p).state ≠ .idle := by obtain ⟨hs, -⟩ | ⟨hs, -⟩ := hstates <;> rw [hs] <;> decide
  have herror : (acceptPixel i p).state ≠ .error := by obtain ⟨hs, -⟩ | ⟨hs, -⟩ := hstates <;> rw [hs] <;> decide
  have hopen : s.jobOpen = true := (jobOpen_iff s).mpr (.inl hl)
  have hnoError : s.err = .noError := hinv.err_iff.mpr (by simp [hl])
  obtain ⟨n, colors, rfl⟩ := hsame
  exact {
    memory_wf := Memory.wf_write _ _ _ hinv.memory_wf
    palN_le := hpalN
    colors_distinct := hdistinct
    pixcount_le := hcount.trans_le (hinv.loading_lt hl)
    loading_lt := fun h => by
      obtain ⟨-, hn⟩ | ⟨hloaded, -⟩ := hstates
      · exact hn
      · cases h.symm.trans hloaded
    complete := acceptPixel_complete hl i
    idle_zero := fun h => absurd h hidle
    open_dims := fun _ => hinv.open_dims hopen
    error_dims := fun h => absurd h herror
    some_color := fun _ _ => Nat.one_le_of_lt ((palValid_iff _ i).mp hindex)
    palN_le_pixcount := hone.trans_eq hcount.symm
    cells_valid := fun _ _ _ => hcells
    err_iff := iff_of_true hnoError herror
    err_info := hinv.err_info }

/-! ### Every step keeps it -/

theorem WordEffect.inv {s t : State} {cmd : Word} (h : WordEffect s cmd t) (hinv : s.Inv) : t.Inv := by
  cases h with
  | unchanged => exact hinv
  | raised e hs => exact raiseError_inv e s hinv hs
  | cleared => exact clearJob_inv hinv.memory_wf
  | opened w h _ hs hw hh => exact openJob_inv hinv hs hw hh
  | reused c i _ hs hc => exact acceptPixel_inv hinv hs (paletteReady_of_hit hinv hc)
  | recorded c _ hs hc hroom => exact acceptPixel_inv hinv hs (paletteReady_of_miss hinv hc hroom)
  | encoded _ hs => exact done_inv_of_loaded hinv hs

/-- No clause of the invariant speaks of the port. -/
theorem State.SameButPort.inv {s t : State} (h : s.SameButPort t) (hinv : s.Inv) : t.Inv := by
  obtain ⟨p, d, rfl⟩ := h
  exact hinv.congr rfl rfl rfl rfl rfl rfl rfl rfl rfl rfl rfl

/-- Settles O46: a step resets the block, or changes the port alone, or has the effect of a word. -/
theorem everyStepKeepsTheInvariant : Obligations.EveryStepKeepsTheInvariant := by
  intro s t hinv ht
  obtain ⟨c, rest, -, -, rfl⟩ | hport | ⟨c, rest, cmd, -, -, heffect⟩ := step_effect ht
  · exact State.SameButPort.inv ⟨_, _, rfl⟩ (resetBlock_inv { s with pending := rest })
  · exact hport.inv hinv
  · exact heffect.inv (State.SameButPort.inv ⟨_, _, rfl⟩ hinv)

/-! ### Cells that no received pixel wrote are not seen (R44, I1) -/

/-- Settles O47: alike states with the same cycles waiting are twins, as the invariant makes the image complete in LOADED and DONE;
and there every cell of the image is a received pixel's. -/
theorem unspecifiedCellsAreNeverSeen : Obligations.UnspecifiedCellsAreNeverSeen := by
  refine ⟨fun s s' t t' hinv _ halike hpending ht ht' => ?_, fun s s' addr z hinv _ halike => ?_,
    fun s y x hinv hdone hy hx => ?_⟩
  · obtain ⟨u, u', hu, hu', htwin, hrdata⟩ := step_nextTwin ⟨halike, hinv.complete, hpending⟩
    obtain rfl := Host.Outcome.next.inj (hu.symm.trans ht)
    obtain rfl := Host.Outcome.next.inj (hu'.symm.trans ht')
    exact ⟨htwin.alike, htwin.pending, hrdata⟩
  · exact State.busRead_congr halike.readReg_eq (halike.tileSetByte_eq hinv.complete) addr z
  · have hopen : s.jobOpen = true := (jobOpen_iff s).mpr (.inr (.inr hdone))
    obtain ⟨v, hv, -⟩ := hinv.cells_valid hopen y x (received_of_complete hinv.complete (.inr hdone) hy hx)
    exact ⟨v, hv⟩

end Sys2Proof.Machine
end

section
/-! PROOFS. The palette quantizer as a whole (41_palette_quantizer.md): any list of pixels of at most four colours gives the palette in
order of first encounter, and an IndexGrid that names the colour of every pixel (R27, R121). -/

namespace Sys2Proof.Machine

/-! ### The distinct colours in order of first encounter -/

@[simp] theorem mem_firstSeen {c : Color} {cs : List Color} : c ∈ firstSeen cs ↔ c ∈ cs := by
  induction cs with
  | nil => rfl
  | cons d ds ih =>
    by_cases hd : c = d <;> simp [firstSeen, ih, hd]

/-- One more colour at the end is seen first there exactly if it was not seen before. -/
theorem firstSeen_concat (cs : List Color) (c : Color) :
    firstSeen (cs ++ [c]) = if c ∈ cs then firstSeen cs else firstSeen cs ++ [c] := by
  induction cs with
  | nil => rfl
  | cons d ds ih =>
    rw [List.cons_append, firstSeen, firstSeen, ih]
    by_cases hd : c = d
    · subst hd
      split <;> simp
    · by_cases hmem : c ∈ ds <;> simp [hmem, hd]

theorem firstSeen_length_le_concat (cs : List Color) (c : Color) :
    (firstSeen cs).length ≤ (firstSeen (cs ++ [c])).length := by
  rw [firstSeen_concat]
  split <;> simp

/-! ### A list of words, one after the other -/

theorem afterCommands_append (cmds cmds' : List Word) (s : State) :
    afterCommands (cmds ++ cmds') s = afterCommands cmds' (afterCommands cmds s) := by
  induction cmds generalizing s with
  | nil => rfl
  | cons cmd cmds ih =>
    obtain ⟨t, ht⟩ := performCommand_completes cmd s
    rw [List.cons_append, afterCommands_cons_of_next ht, afterCommands_cons_of_next ht, ih]

/-! ### What the state holds after the pixels of a list of colours -/

/-- After the colours `cs` of a `w` by `h` image the palette holds their distinct ones, and the cells of the pixels name them. -/
structure State.Quantized (w h : Dim) (cs : List Color) (t : State) : Prop where
  inv : t.Inv
  w_eq : t.w = w
  h_eq : t.h = h
  pixcount : t.pixcount.toNat = cs.length
  state : t.state = if cs.length = w.toNat * h.toNat then .loaded else .loading
  palN : t.palN.toNat = (firstSeen cs).length
  entries : ∀ (k : PalIndex) (c : Color), (firstSeen cs)[k.toNat]? = some c → t.palEntry k = c
  pixels : ∀ (n : Nat) (c : Color), cs[n]? = some c → t.palEntry (t.cell (n / w.toNat) (n % w.toNat)) = c

/-- A job that has just opened holds no colour. -/
theorem quantized_nil {s : State} (hinv : s.Inv) (hl : s.state = .loading) (hp : s.pixcount = 0) :
    State.Quantized s.w s.h [] s := by
  have hcount : s.pixcount.toNat = 0 := by simp [hp]
  have hlt : 0 < s.w.toNat * s.h.toNat := hcount ▸ hinv.loading_lt hl
  have hpalN : s.palN.toNat = 0 := Nat.le_zero.mp (hinv.palN_le_pixcount.trans_eq hcount)
  exact ⟨hinv, rfl, rfl, hcount, hl.trans (if_neg hlt.ne).symm, hpalN, by simp [firstSeen], by simp⟩

/-- The cell of a received pixel names a valid entry. -/
theorem palValid_cell_of_received {s : State} (hinv : s.Inv) (hopen : s.jobOpen = true) {y x : Nat} (hr : s.received y x) :
    s.palValid (s.cell y x) = true := by
  obtain ⟨v, hv, hvalid⟩ := hinv.cells_valid hopen y x hr
  rwa [State.cell, hv]

/-- The pixel at the cursor is the next one, not yet received. -/
theorem not_received_cursor {s : State} (hinv : s.Inv) (hl : s.state = .loading) : ¬ s.received s.curY s.curX := by
  obtain ⟨-, -, -, -, hpos⟩ := cursor_bounds s hinv hl
  exact fun hr => absurd hr.2 (by omega)

section
variable {w h : Dim} {cs : List Color} {t : State} (hq : t.Quantized w h cs)
include hq

/-- The pixels of the list are the received ones. -/
theorem State.Quantized.received (hl : t.state = .loading) {n : Nat} (hn : n < cs.length) :
    t.received (n / w.toNat) (n % w.toNat) := by
  obtain ⟨hX, -⟩ := cursor_bounds t hq.inv hl
  obtain rfl := hq.w_eq
  refine ⟨Nat.mod_lt n (Nat.zero_lt_of_lt hX), ?_⟩
  rw [hq.pixcount, Nat.mul_comm, Nat.div_add_mod]
  exact hn

/-- A colour that the lookup finds is one of the list. -/
theorem State.Quantized.mem_of_lookup_some {c : Color} {i : PalIndex} (hc : t.lookup c = some i) : c ∈ cs := by
  obtain ⟨hvalid, hentry⟩ := lookup_some t c i hc
  have hlt : i.toNat < (firstSeen cs).length := hq.palN ▸ (palValid_iff t i).mp hvalid
  have hseen := hq.entries i _ (List.getElem?_eq_getElem hlt)
  rw [← mem_firstSeen, ← hentry, hseen]
  exact List.getElem_mem hlt

/-- A colour that the lookup misses is not one of the list. -/
theorem State.Quantized.not_mem_of_lookup_none {c : Color} (hc : t.lookup c = none) : c ∉ cs := by
  rw [← mem_firstSeen, List.mem_iff_getElem?]
  rintro ⟨n, hn⟩
  have hlt : n < t.palN.toNat := hq.palN ▸ (List.getElem?_eq_some_iff.mp hn).1
  have hindex : (BitVec.ofNat 2 n).toNat = n := Nat.mod_eq_of_lt (hlt.trans_le hq.inv.palN_le)
  refine lookup_none t c hc (BitVec.ofNat 2 n) ((palValid_iff t _).mpr ?_) (hq.entries _ c ?_)
  · rwa [hindex]
  · rwa [hindex]

/-- A pixel accepted with index `i` on a palette that gives the distinct colours of the list and the pixel's. -/
theorem State.Quantized.accepted {p : State} {i : PalIndex} {c : Color} (hl : t.state = .loading)
    (hready : t.PaletteReady p i) (hpalN : p.palN.toNat = (firstSeen (cs ++ [c])).length)
    (hentries : ∀ (k : PalIndex) (d : Color), (firstSeen (cs ++ [c]))[k.toNat]? = some d → p.palEntry k = d)
    (hkept : ∀ k : PalIndex, t.palValid k = true → p.palEntry k = t.palEntry k) (hc : p.palEntry i = c) :
    (acceptPixel i p).Quantized w h (cs ++ [c]) := by
  have hsame := hready.sameButPalette
  have hinv' := acceptPixel_inv hq.inv hl hready
  obtain ⟨hcount, hstate⟩ := acceptPixel_counts hsame hq.inv hl i
  obtain ⟨-, -, hwmax, hhmax, -⟩ := cursor_bounds t hq.inv hl
  have hcursor := acceptPixel_cursor_cell hsame i
  have hother {y x : Nat} := acceptPixel_other_cell (y := y) (x := x) hsame hq.inv hl i
  have hopen : t.jobOpen = true := (jobOpen_iff t).mpr (.inl hl)
  obtain ⟨m, colors, rfl⟩ := hsame
  refine ⟨hinv', hq.w_eq, hq.h_eq, ?_, ?_, hpalN, hentries, fun n d hn => ?_⟩
  · rw [hcount, hq.pixcount, List.length_append, List.length_singleton]
  · rw [hstate, hq.pixcount, List.length_append, List.length_singleton, State.npix, hq.w_eq, hq.h_eq]
  · obtain hlt | rfl := Nat.lt_succ_iff_lt_or_eq.mp (by simpa using (List.getElem?_eq_some_iff.mp hn).1)
    · have hr := hq.received hl hlt
      obtain ⟨hy, hx⟩ := received_in_image hq.inv hr
      have hbefore : ¬ (n / w.toNat = t.curY ∧ n % w.toNat = t.curX) := by
        rintro ⟨hyc, hxc⟩
        exact not_received_cursor hq.inv hl (hyc ▸ hxc ▸ hr)
      rw [List.getElem?_append_left hlt] at hn
      rw [hother (by omega) (by omega) hbefore]
      exact (hkept _ (palValid_cell_of_received hq.inv hopen hr)).trans (hq.pixels n d hn)
    · obtain rfl : c = d := by simpa using hn
      have hposition : t.curY = cs.length / w.toNat ∧ t.curX = cs.length % w.toNat := by
        rw [State.curY, State.curX, hq.pixcount, hq.w_eq]
        exact ⟨rfl, rfl⟩
      rw [← hposition.1, ← hposition.2, hcursor]
      exact hc

/-- Recording a colour puts it at the end of the entries. -/
theorem State.Quantized.addColor_entry {c d : Color} (hroom : t.palN.toNat < 4) {k : PalIndex}
    (hk : (firstSeen cs ++ [c])[k.toNat]? = some d) : (t.addColor c).palEntry k = d := by
  rw [addColor_palEntry t c hroom]
  have hbound : k.toNat < t.palN.toNat + 1 := by simpa [hq.palN] using (List.getElem?_eq_some_iff.mp hk).1
  obtain hold | hnew := Nat.lt_succ_iff_lt_or_eq.mp hbound
  · rw [List.getElem?_append_left (hq.palN ▸ hold)] at hk
    exact (if_neg hold.ne).trans (hq.entries k d hk)
  · rw [if_pos hnew]
    simpa [hnew, hq.palN] using hk

/-- One more pixel, of a colour of the list or of a new one while there are at most four. -/
theorem State.Quantized.pixel {c : Color} (hl : t.state = .loading) (hfour : (firstSeen (cs ++ [c])).length ≤ 4) :
    ∃ t', exec (.pixel c) t = .next t' ∧ t'.Quantized w h (cs ++ [c]) := by
  rw [exec_pixel_of_loading hl]
  refine ⟨_, rfl, ?_⟩
  have hseen := firstSeen_concat cs c
  obtain ⟨i, hc, heq⟩ | ⟨hc, hfull, -⟩ | ⟨hc, hroom, heq⟩ := deliverPixel_cases c t
  · rw [if_pos (hq.mem_of_lookup_some hc)] at hseen
    rw [heq]
    exact hq.accepted hl (paletteReady_of_hit hq.inv hc) (hseen ▸ hq.palN) (hseen ▸ hq.entries) (fun _ _ => rfl)
      (lookup_some t c i hc).2
  · rw [if_neg (hq.not_mem_of_lookup_none hc)] at hseen
    rw [hseen, List.length_append, ← hq.palN, hfull, List.length_singleton] at hfour
    exact absurd hfour (by decide)
  · rw [if_neg (hq.not_mem_of_lookup_none hc)] at hseen
    have hlt : t.palN.toNat < 4 := Nat.lt_of_le_of_ne hq.inv.palN_le hroom
    have hentry := addColor_palEntry t c hlt
    rw [heq]
    refine hq.accepted hl (paletteReady_of_miss hq.inv hc hroom) ?_ (fun k d hk => ?_) (fun k hk => ?_) ?_
    · rw [addColor_palN_toNat t c hlt, hseen, hq.palN, List.length_append, List.length_singleton]
    · exact hq.addColor_entry hlt (hseen ▸ hk)
    · exact (hentry k).trans (if_neg ((palValid_iff t k).mp hk).ne)
    · exact (hentry _).trans (if_pos (nextIndex_toNat t hlt))

end

/-- The pixels of a list of at most four colours that fits the image, by induction on the list from its end. -/
theorem quantized_afterCommands {s : State} (hinv : s.Inv) (hl : s.state = .loading) (hp : s.pixcount = 0)
    (cs : List Color) (hlen : cs.length ≤ s.w.toNat * s.h.toNat) (hfour : (firstSeen cs).length ≤ 4) :
    (afterCommands (cs.map fun c => encode (.pixel c)) s).Quantized s.w s.h cs := by
  induction cs using List.reverseRecOn with
  | nil => exact quantized_nil hinv hl hp
  | append_singleton cs c ih =>
    rw [List.length_append, List.length_singleton] at hlen
    have hq := ih (by omega) ((firstSeen_length_le_concat cs c).trans hfour)
    have hloading := hq.state.trans (if_neg (by omega))
    obtain ⟨t, ht, hq'⟩ := hq.pixel hloading hfour
    rw [List.map_append, afterCommands_append, List.map_singleton,
      afterCommands_cons_of_next ((performCommand_ok _ _ _ (decode_encode _)).trans ht)]
    exact hq'

/-- Settles O27: what the state holds after the list is `State.Quantized`. -/
theorem deliveredColoursGiveTheFirstSeenPalette : Obligations.DeliveredColoursGiveTheFirstSeenPalette := by
  intro s cs hinv hl hp hlen hfour t
  have hq : t.Quantized s.w s.h cs := quantized_afterCommands hinv hl hp cs hlen hfour
  exact ⟨hq.palN, hq.entries, hq.pixcount, hq.state, hq.pixels⟩

end Sys2Proof.Machine
end

section
/-! PROOFS. The registers as numbers (10_state.md section 4), the reset values (R43, R190), and what one cycle of the port does
(10_state.md section 1, 20_memory.md section 3). -/

namespace Sys2Proof

/-! ### Words made of fields -/

/-- A field put below the others adds its number at its place. -/
theorem or_placeField_toNat {n lo : Nat} {a : Word} (ha : 2 ^ (lo + n) ∣ a.toNat) (v : BitVec n) (h : lo + n ≤ 32) :
    (a ||| placeField lo v).toNat = a.toNat + v.toNat * 2 ^ lo := by
  have hlt : (placeField lo v).toNat < 2 ^ (lo + n) := by
    rw [placeField_toNat lo v h, Nat.add_comm, Nat.pow_add]
    exact Nat.mul_lt_mul_of_pos_right v.isLt (Nat.two_pow_pos lo)
  rw [or_toNat_of_dvd_of_lt ha hlt, placeField_toNat lo v h]

theorem placeField_zero_toNat {n : Nat} (v : BitVec n) (h : n ≤ 32) : (placeField 0 v).toNat = v.toNat := by
  rw [placeField_toNat 0 v (by omega), Nat.pow_zero, Nat.mul_one]

end Sys2Proof

namespace Sys2Proof.Machine

/-! ### The registers (R31 to R39) -/

theorem statusWord_toNat (s : State) :
    s.statusWord.toNat = s.state.code.toNat + 2 ^ 4 * s.err.code.toNat + 2 ^ 8 * s.palN.toNat := by
  have hcolors : (placeField 8 s.palN).toNat = s.palN.toNat * 2 ^ 8 := placeField_toNat 8 s.palN (by decide)
  have herr : (placeField 8 s.palN ||| placeField 4 s.err.code).toNat = s.palN.toNat * 2 ^ 8 + s.err.code.toNat * 2 ^ 4 := by
    rw [or_placeField_toNat (by omega) _ (by decide), hcolors]
  rw [State.statusWord, or_placeField_toNat (by omega) _ (by decide), herr]
  omega

/-- Two fields, the upper one from bit 16 on. -/
theorem placeField_sixteen_or_toNat {m n : Nat} (u : BitVec m) (v : BitVec n) (hm : m ≤ 16) (hn : n ≤ 16) :
    (placeField 16 u ||| placeField 0 v).toNat = v.toNat + 2 ^ 16 * u.toNat := by
  have hupper : (placeField 16 u).toNat = u.toNat * 2 ^ 16 := placeField_toNat 16 u (by omega)
  have hdvd : 2 ^ (0 + n) ∣ (placeField 16 u).toNat := by
    rw [hupper]
    exact Nat.dvd_mul_left_of_dvd (Nat.pow_dvd_pow 2 (by omega)) _
  rw [or_placeField_toNat hdvd v (by omega), hupper]
  omega

/-- Legal dimensions, and the zeros of IDLE, keep the tile counts inside the fields of GEOM. -/
theorem dims_le {s : State} (hinv : s.Inv) : s.w.toNat ≤ 256 ∧ s.h.toNat ≤ 256 := by
  have hlegal (h : dimOk s.w ∧ dimOk s.h) : s.w.toNat ≤ 256 ∧ s.h.toNat ≤ 256 := by
    rw [dimOk_iff, dimOk_iff] at h
    omega
  have hzero (h : s.w = 0 ∧ s.h = 0) : s.w.toNat ≤ 256 ∧ s.h.toNat ≤ 256 := by simp [h.1, h.2]
  cases hs : s.state with
  | idle =>
    obtain ⟨hw, hh, -⟩ := hinv.idle_zero hs
    exact hzero ⟨hw, hh⟩
  | loading | loaded | done => exact hlegal (hinv.open_dims ((jobOpen_iff s).mpr (by simp [hs])))
  | error => exact (hinv.error_dims hs).elim hzero hlegal

theorem geomWord_toNat {s : State} (hinv : s.Inv) :
    s.geomWord.toNat = s.tileCols + 2 ^ 8 * s.tileRows + 2 ^ 16 * s.tileCount := by
  obtain ⟨hw, hh⟩ := dims_le hinv
  have hcols : s.tileCols ≤ 32 := by simp only [State.tileCols, Config.tileDim]; omega
  have hrows : s.tileRows ≤ 32 := by simp only [State.tileRows, Config.tileDim]; omega
  have hcount : s.tileCount ≤ 32 * 32 := Nat.mul_le_mul hcols hrows
  have hcolsField : (BitVec.ofNat 6 s.tileCols).toNat = s.tileCols := Nat.mod_eq_of_lt (by omega)
  have hrowsField : (BitVec.ofNat 6 s.tileRows).toNat = s.tileRows := Nat.mod_eq_of_lt (by omega)
  have hcountField : (BitVec.ofNat 11 s.tileCount).toNat = s.tileCount := Nat.mod_eq_of_lt (by omega)
  have hcountWord := placeField_toNat 16 (BitVec.ofNat 11 s.tileCount) (by decide)
  have hupper := or_placeField_toNat (lo := 8) (a := placeField 16 (BitVec.ofNat 11 s.tileCount)) (by omega)
    (BitVec.ofNat 6 s.tileRows) (by decide)
  rw [State.geomWord, or_placeField_toNat (by omega) _ (by decide)]
  omega

theorem palWord_toNat (s : State) (i : PalIndex) :
    (s.palWord i).toNat = if i.toNat < s.palN.toNat then 2 ^ 31 + (s.palEntry i).toNat else 0 := by
  have hvalid : (placeField 31 1#1).toNat = 2 ^ 31 := rfl
  simp only [State.palWord, palValid_iff]
  split
  · rw [or_placeField_toNat (by omega) _ (by decide), hvalid, Nat.pow_zero, Nat.mul_one]
  · rfl

/-- Settles O32: each register is the sum of its fields at their places. -/
theorem registerFieldsHoldTheirElements : Obligations.RegisterFieldsHoldTheirElements := by
  intro s hinv
  refine ⟨rfl, rfl, (statusWord_toNat s).trans ?_, placeField_sixteen_or_toNat s.h s.w (by decide) (by decide),
    placeField_zero_toNat s.pixcount (by decide), placeField_sixteen_or_toNat s.errY s.errX (by decide) (by decide),
    placeField_zero_toNat s.errClr (by decide), geomWord_toNat hinv, palWord_toNat s⟩
  cases s.state <;> cases s.err <;> rfl

/-! ### Reset (R43, R190) -/

theorem reset_palEntry (i : PalIndex) : State.reset.palEntry i = 0 := clearJob_palEntry State.reset i

/-- Settles O12: every element of the table is a constant of `State.reset`. -/
theorem resetStateHoldsTheResetTable : Obligations.ResetStateHoldsTheResetTable :=
  ⟨rfl, rfl, rfl, rfl, rfl, rfl, fun i => congrArg BitVec.toNat (reset_palEntry i), rfl, rfl, rfl, fun _ => rfl, fun _ => rfl⟩

/-- Settles O11: the cycle in reset is taken by `resetBlock`, and the one after it is the next of those that wait. -/
theorem resetCycleGivesResetValues : Obligations.ResetCycleGivesResetValues := by
  intro s c rest hp hr
  refine ⟨_, step_of_reset hp hr, rfl, rfl, rfl, rfl, rfl, rfl, rfl, reset_palEntry, rfl, rfl, rfl, fun _ => rfl,
    fun a z hread => by simp [readDataInReset, hread], fun c' rest' tr hrest hr' htr => ⟨none, ?_⟩⟩
  subst hrest
  exact step_of_transaction rfl hr' htr

/-! ### The other cycles (R20, R51, R59, R70) -/

/-- Settles O13: a cycle without `sel` presents no transaction, and without a cycle the block idles. -/
theorem nothingPresentedHoldsTheState : Obligations.NothingPresentedHoldsTheState :=
  ⟨fun _ c _ hp hr hsel => step_of_no_transaction hp hr (by simp [BusCycle.transaction, hsel]),
    fun _ hp => step_of_no_cycle hp⟩

/-- A cycle that presents a read sets the read data and changes nothing else. -/
theorem step_of_read {s : State} {c : BusCycle} {rest : List BusCycle} (hp : s.pending = c :: rest) (hr : c.rstN = true)
    {addr : Addr} {z : AccessSize} (ht : c.transaction = some (.read addr z)) :
    step s = .next { s with pending := rest, rdata := some (s.busRead addr z) } := by
  rw [step_of_transaction hp hr ht, performTransaction_read, State.busRead_port]

/-- Settles O38: a read depends neither on the waiting cycles nor on the read data of before, so the second one returns the same. -/
theorem readsHaveNoSideEffect : Obligations.ReadsHaveNoSideEffect := by
  intro s c rest addr z hp hr ht
  refine ⟨step_of_read hp hr ht, fun c₂ rest₂ hrest hr₂ ht₂ => ?_⟩
  rw [step_of_read (s := { s with pending := rest, rdata := some (s.busRead addr z) }) hrest hr₂ ht₂,
    State.busRead_port s rest]

/-- The cycle that presents a command's transaction delivers its word (R55, R70). -/
theorem commandOf_cycle (cmd : Word) : commandOf (Transaction.command cmd).cycle = some cmd :=
  (commandOf_eq_some_iff _ cmd).mpr ⟨rstN_cycle _, cmdAddr, transaction_cycle _, rfl⟩

theorem tableWord_toNat (cmd : Word) : tableWord 32 cmd.toNat = cmd := by
  rw [tableWord, Nat.mod_eq_of_lt cmd.isLt, BitVec.ofNat_toNat, BitVec.setWidth_eq]

/-- Settles O9: the cycle delivers the word, and the decoded instruction is performed. -/
theorem stepRunsTheDecodedInstruction : Obligations.StepRunsTheDecodedInstruction := by
  refine ⟨fun s c rest addr cmd i hp hr ht ha hd => ?_, fun s i hd => ?_⟩
  · have hcmd : commandOf c = some cmd :=
      (commandOf_eq_some_iff c cmd).mpr ⟨hr, addr, ht, (effectiveAddress_four_eq_cmdAddr_iff addr).mpr ha⟩
    exact (step_of_command hp hcmd).trans (performCommand_ok cmd i _ hd)
  · rw [State.withFetchWord, tableWord_toNat]
    exact (step_of_command rfl (commandOf_cycle (encode i))).trans (performCommand_ok _ i _ hd)

theorem step_completes (s : State) : ∃ t, step s = .next t := by
  obtain ⟨-, heq⟩ | ⟨c, rest, -, -, heq⟩ | ⟨c, rest, -, -, -, heq⟩ | ⟨c, rest, tr, -, -, -, heq⟩ := step_cases s
  · exact ⟨_, heq⟩
  · exact ⟨_, heq⟩
  · exact ⟨_, heq⟩
  · exact heq ▸ performTransaction_completes tr _

/-- Settles O10: every transaction completes, and every command is a next state. -/
theorem everyStepAndCommandCompletes : Obligations.EveryStepAndCommandCompletes := ⟨step_completes, exec_completes⟩

end Sys2Proof.Machine
end
